-- ==== Sys2Proof/Word.lean ====
section
/-! DEFINITION. The word types of the CHIP-8 core (spec rules R6, R8, R9, R73): every value is an unsigned bit vector. -/

namespace Sys2Proof

/-- One cell of memory, one general register, one timer (R20, R21, R31). -/
abbrev Byte := BitVec 8

/-- An instruction word, the program counter, the index register, a stack entry (R24, R25, R28, R72). -/
abbrev Word := BitVec 16

/-- The 12-bit address operand nnn (R73). -/
abbrev Addr := BitVec 12

/-- A 4-bit field of an instruction word (R73). -/
abbrev Nibble := BitVec 4

/-- The index of a general register V0 to VF, or of a key (R21, R34, R35). -/
abbrev Reg := BitVec 4

end Sys2Proof
end

