-- ==== Sys2Proof/Config.lean ====
section
/-! DEFINITION. What is fixed for the machine (R6), the parameters R6 marks OPEN, and the one free value of the spec (R13). -/

namespace Sys2Proof

/-- MEM_SIZE of R6. -/
@[simp] abbrev Config.memSize : Nat := 4096

/-- GLYPH_BASE of R6. -/
@[simp] abbrev Config.glyphBase : Nat := 0x050

/-- GLYPH_SIZE of R6: bytes per glyph. -/
@[simp] abbrev Config.glyphSize : Nat := 5

/-- PROG_BASE of R6, which is also PC_RESET. -/
@[simp] abbrev Config.progBase : Nat := 0x200

/-- PROG_MAX of R6: the largest program image. -/
@[simp] abbrev Config.progMax : Nat := 3584

/-- The static check of R7: the glyph range must not overlap program memory. -/
def Config.layoutOk : Bool :=
  decide (Config.glyphBase + 16 * Config.glyphSize ≤ Config.progBase)

/-- The two values of the OPEN parameter LOGIC_VF (R6, decision D6). -/
inductive LogicVf where
  | unchanged
  | zero
  deriving DecidableEq, Repr

/-- The OPEN parameters of R6, "an argument of the model": every statement about all states holds for every value of
them. TICK_RATE and STEP_RATE are OPEN too, but no rule depends on them (R259). -/
structure Params where
  /-- GLYPHS: the 80 glyph bytes, five for each digit, digit 0 first (decision D8) -/
  glyphs : Vector Byte 80
  /-- HAS_8XY0: whether 8xy0 is an instruction (decision D5) -/
  has8xy0 : Bool
  /-- LOGIC_VF: what OR, AND and XOR do to VF (decision D6) -/
  logicVf : LogicVf
  deriving DecidableEq, Repr

/-- The default of GLYPHS: the table G3 of spec/93_implementation_defined.md, one digit a line. -/
def Params.standardGlyphs : Vector Byte 80 := #v[
  0xF0, 0x90, 0x90, 0x90, 0xF0,
  0x20, 0x60, 0x20, 0x20, 0x70,
  0xF0, 0x10, 0xF0, 0x80, 0xF0,
  0xF0, 0x10, 0xF0, 0x10, 0xF0,
  0x90, 0x90, 0xF0, 0x10, 0x10,
  0xF0, 0x80, 0xF0, 0x10, 0xF0,
  0xF0, 0x80, 0xF0, 0x90, 0xF0,
  0xF0, 0x10, 0x20, 0x40, 0x40,
  0xF0, 0x90, 0xF0, 0x90, 0xF0,
  0xF0, 0x90, 0xF0, 0x10, 0xF0,
  0xF0, 0x90, 0xF0, 0x90, 0x90,
  0xE0, 0x90, 0xE0, 0x90, 0xE0,
  0xF0, 0x80, 0x80, 0x80, 0xF0,
  0xE0, 0x90, 0x90, 0x90, 0xE0,
  0xF0, 0x80, 0xF0, 0x80, 0xF0,
  0xF0, 0x80, 0xF0, 0x80, 0x80]

/-- The defaults R6 gives the OPEN parameters (log entry 1). -/
def Params.standard : Params where
  glyphs := Params.standardGlyphs
  has8xy0 := true
  logicVf := .unchanged

/-- The contents of memory after construction (R40), and so what an address nothing has written reads as:
the glyph table at 0x050 to 0x09F, 0 everywhere else. -/
def Params.resetByte (p : Params) (a : Nat) : Byte :=
  if h : Config.glyphBase ≤ a ∧ a < Config.glyphBase + 80 then
    p.glyphs[a - Config.glyphBase]'(by simp only [Config.glyphBase] at h ⊢; omega)
  else 0

/-- The free value of R13: the byte that the n-th draw of the entropy source gives. It has no body, so nothing in Lean
knows a value of it or a law that relates one draw to another (log entry 2). -/
opaque Config.randByte : Nat → Byte

end Sys2Proof
end

