-- ==== Sys2Proof/Syntax.lean ====
section
/-! DEFINITION. The 34 instructions of the opcode map (R78), one constructor per row of spec/opcode_table.json, in its order. -/

namespace Sys2Proof

/-- An instruction with the operands R73 extracts for it. x and y are register indices, kk an 8-bit immediate,
nnn a 12-bit address, n a sprite height. -/
inductive Instr where
  /-- CLS: clear the screen (R170) -/
  | cls
  /-- RET: return from subroutine (R100) -/
  | ret
  /-- JP nnn: jump (R101) -/
  | jp (nnn : Addr)
  /-- CALL nnn: call subroutine (R102) -/
  | call (nnn : Addr)
  /-- SE Vx, kk: skip if equal to immediate (R103) -/
  | seVxKk (x : Reg) (kk : Byte)
  /-- SNE Vx, kk: skip if not equal to immediate (R104) -/
  | sneVxKk (x : Reg) (kk : Byte)
  /-- SE Vx, Vy: skip if registers equal (R105) -/
  | seVxVy (x : Reg) (y : Reg)
  /-- LD Vx, kk: load immediate (R120) -/
  | ldVxKk (x : Reg) (kk : Byte)
  /-- ADD Vx, kk: add immediate (R121) -/
  | addVxKk (x : Reg) (kk : Byte)
  /-- LD Vx, Vy: copy register; present only with HAS_8XY0 (R124) -/
  | ldVxVy (x : Reg) (y : Reg)
  /-- OR Vx, Vy: bitwise or (R125) -/
  | orVxVy (x : Reg) (y : Reg)
  /-- AND Vx, Vy: bitwise and (R126) -/
  | andVxVy (x : Reg) (y : Reg)
  /-- XOR Vx, Vy: exclusive or (R127) -/
  | xorVxVy (x : Reg) (y : Reg)
  /-- ADD Vx, Vy: add with carry out (R128) -/
  | addVxVy (x : Reg) (y : Reg)
  /-- SUB Vx, Vy: V[x] - V[y] (R129) -/
  | subVxVy (x : Reg) (y : Reg)
  /-- SHR Vx: shift right by one; y is encoded and not read (R130) -/
  | shrVx (x : Reg) (y : Reg)
  /-- SUBN Vx, Vy: V[y] - V[x] (R131) -/
  | subnVxVy (x : Reg) (y : Reg)
  /-- SHL Vx: shift left by one; y is encoded and not read (R132) -/
  | shlVx (x : Reg) (y : Reg)
  /-- SNE Vx, Vy: skip if registers not equal (R106) -/
  | sneVxVy (x : Reg) (y : Reg)
  /-- LD I, nnn: set index (R150) -/
  | ldINnn (nnn : Addr)
  /-- JP V0, nnn: jump to nnn plus V0 (R107) -/
  | jpV0Nnn (nnn : Addr)
  /-- RND Vx, kk: random byte masked by an immediate (R133) -/
  | rndVxKk (x : Reg) (kk : Byte)
  /-- DRW Vx, Vy, n: draw an 8-pixel-wide sprite of n rows (R172) -/
  | drwVxVyN (x : Reg) (y : Reg) (n : Nibble)
  /-- SKP Vx: skip if key pressed (R190) -/
  | skpVx (x : Reg)
  /-- SKNP Vx: skip if key not pressed (R191) -/
  | sknpVx (x : Reg)
  /-- LD Vx, DT: read the delay timer (R193) -/
  | ldVxDT (x : Reg)
  /-- LD Vx, K: wait for a key press (R194) -/
  | ldVxK (x : Reg)
  /-- LD DT, Vx: set the delay timer (R195) -/
  | ldDTVx (x : Reg)
  /-- LD ST, Vx: set the sound timer (R196) -/
  | ldSTVx (x : Reg)
  /-- ADD I, Vx: add register to index (R151) -/
  | addIVx (x : Reg)
  /-- LD F, Vx: point the index at a glyph (R152) -/
  | ldFVx (x : Reg)
  /-- LD B, Vx: store binary-coded decimal (R153) -/
  | ldBVx (x : Reg)
  /-- LD [I], Vx: store registers V0 to Vx at I (R154) -/
  | ldMemVx (x : Reg)
  /-- LD Vx, [I]: load registers V0 to Vx from I (R155) -/
  | ldVxMem (x : Reg)
  deriving DecidableEq, Repr

end Sys2Proof
end

