-- ==== Sys2Proof/Decode.lean ====
section
/-! DEFINITION. From words to instructions (R72 to R80) and back: the fields, the two-level decoder, the opcode table, the
encoder, and the byte order of an instruction in memory (R52). -/

namespace Sys2Proof

/-! The fields of R73. -/

/-- op = w[15:12], the family. -/
def opField (w : Word) : Nibble := w.extractLsb' 12 4

/-- x = w[11:8], the first register index. -/
def xField (w : Word) : Reg := w.extractLsb' 8 4

/-- y = w[7:4], the second register index. -/
def yField (w : Word) : Reg := w.extractLsb' 4 4

/-- n = w[3:0], the low nibble. -/
def nField (w : Word) : Nibble := w.extractLsb' 0 4

/-- kk = w[7:0], the low byte. -/
def kkField (w : Word) : Byte := w.extractLsb' 0 8

/-- nnn = w[11:0], the address operand. -/
def nnnField (w : Word) : Addr := w.extractLsb' 0 12

/-! The decoder. -/

/-- Why a word is unknown: the five cases of R79, with 8xy0 on a machine without HAS_8XY0 named apart. -/
inductive UnknownWord where
  /-- op = 0x0 and kk is neither 0xE0 nor 0xEE -/
  | systemWord
  /-- op = 0x5 or 0x9 and n is not 0 -/
  | registerSkipNibble
  /-- op = 0x8 and n is 0x8 to 0xD or 0xF -/
  | aluNibble
  /-- op = 0x8 and n = 0 while HAS_8XY0 is false -/
  | copyAbsent
  /-- op = 0xE and kk is neither 0x9E nor 0xA1 -/
  | keyByte
  /-- op = 0xF and kk is none of the nine low bytes of the family -/
  | miscByte
  deriving DecidableEq, Repr

/-- Family 0x0 dispatches on the low byte; the x nibble takes no part (R77, decision D4). -/
def decodeSystem (kk : Byte) : Except UnknownWord Instr :=
  match kk with
  | 0xE0#8 => .ok .cls
  | 0xEE#8 => .ok .ret
  | _ => .error .systemWord

/-- Family 0x8 dispatches on the low nibble (R77). -/
def decodeAlu (p : Params) (x y : Reg) (n : Nibble) : Except UnknownWord Instr :=
  match n with
  | 0x0#4 => if p.has8xy0 then .ok (.ldVxVy x y) else .error .copyAbsent
  | 0x1#4 => .ok (.orVxVy x y)
  | 0x2#4 => .ok (.andVxVy x y)
  | 0x3#4 => .ok (.xorVxVy x y)
  | 0x4#4 => .ok (.addVxVy x y)
  | 0x5#4 => .ok (.subVxVy x y)
  | 0x6#4 => .ok (.shrVx x y)
  | 0x7#4 => .ok (.subnVxVy x y)
  | 0xE#4 => .ok (.shlVx x y)
  | _ => .error .aluNibble

/-- Family 0xE dispatches on the low byte (R77). -/
def decodeKey (x : Reg) (kk : Byte) : Except UnknownWord Instr :=
  match kk with
  | 0x9E#8 => .ok (.skpVx x)
  | 0xA1#8 => .ok (.sknpVx x)
  | _ => .error .keyByte

/-- Family 0xF dispatches on the low byte (R77). -/
def decodeMisc (x : Reg) (kk : Byte) : Except UnknownWord Instr :=
  match kk with
  | 0x07#8 => .ok (.ldVxDT x)
  | 0x0A#8 => .ok (.ldVxK x)
  | 0x15#8 => .ok (.ldDTVx x)
  | 0x18#8 => .ok (.ldSTVx x)
  | 0x1E#8 => .ok (.addIVx x)
  | 0x29#8 => .ok (.ldFVx x)
  | 0x33#8 => .ok (.ldBVx x)
  | 0x55#8 => .ok (.ldMemVx x)
  | 0x65#8 => .ok (.ldVxMem x)
  | _ => .error .miscByte

/-- Families 0x5 and 0x9: "low nibble must be 0, else reported as unknown" (R77). -/
def decodeRegisterSkip (i : Instr) (n : Nibble) : Except UnknownWord Instr :=
  if n = 0 then .ok i else .error .registerSkipNibble

/-- The decoder of one word (R76 to R80), total: an instruction of R78, or why the word is unknown (R79). -/
def decodeWord (p : Params) (w : Word) : Except UnknownWord Instr :=
  match opField w with
  | 0x0#4 => decodeSystem (kkField w)
  | 0x1#4 => .ok (.jp (nnnField w))
  | 0x2#4 => .ok (.call (nnnField w))
  | 0x3#4 => .ok (.seVxKk (xField w) (kkField w))
  | 0x4#4 => .ok (.sneVxKk (xField w) (kkField w))
  | 0x5#4 => decodeRegisterSkip (.seVxVy (xField w) (yField w)) (nField w)
  | 0x6#4 => .ok (.ldVxKk (xField w) (kkField w))
  | 0x7#4 => .ok (.addVxKk (xField w) (kkField w))
  | 0x8#4 => decodeAlu p (xField w) (yField w) (nField w)
  | 0x9#4 => decodeRegisterSkip (.sneVxVy (xField w) (yField w)) (nField w)
  | 0xA#4 => .ok (.ldINnn (nnnField w))
  | 0xB#4 => .ok (.jpV0Nnn (nnnField w))
  | 0xC#4 => .ok (.rndVxKk (xField w) (kkField w))
  | 0xD#4 => .ok (.drwVxVyN (xField w) (yField w) (nField w))
  | 0xE#4 => decodeKey (xField w) (kkField w)
  | _ => decodeMisc (xField w) (kkField w) -- the sixteenth family, 0xF

/-! Byte order in memory (R52). -/

/-- The instruction word of two bytes: the byte at the lower address is the high one (R52). -/
def wordOfBytes (hi lo : Byte) : Word := BitVec.ofNat 16 (hi.toNat * 256 + lo.toNat)

/-- The two bytes of a word in address order (R52). -/
def bytesOfWord (w : Word) : List Byte := [w.extractLsb' 8 8, w.extractLsb' 0 8]

/-- Why a sequence of bytes does not begin with an instruction. -/
inductive DecodeError where
  /-- fewer than the two bytes of R72 are left -/
  | truncated
  /-- the first two bytes are an unknown word (R79) -/
  | unknown (w : Word) (why : UnknownWord)
  deriving DecidableEq, Repr

/-- The decoder of a sequence of bytes: the first instruction and the bytes after it, or a named rejection. -/
def decode (p : Params) : List Byte → Except DecodeError (Instr × List Byte)
  | hi :: lo :: rest =>
    match decodeWord p (wordOfBytes hi lo) with
    | .ok i => .ok (i, rest)
    | .error why => .error (.unknown (wordOfBytes hi lo) why)
  | _ => .error .truncated

/-- The bytes, in address order, of an instruction whose bits are w as spec/opcode_table.json numbers them: bit 15 is the
top bit of its one word, and bits at or above nbits are 0. -/
def tableWordBytes (nbits w : Nat) : List Byte := bytesOfWord (BitVec.ofNat 16 (w % 2 ^ nbits))

/-- What the decoder reads from the opcode table's word w, under the default parameters. -/
def decodeTableWord (nbits w : Nat) : Option Instr :=
  match decode Params.standard (tableWordBytes nbits w) with
  | .ok (i, _) => some i
  | .error _ => none

/-! The opcode table (R78). -/

/-- One row of R78: a word w stands for the row's instruction when w & mask = pattern. -/
structure OpcodeRow where
  mnemonic : String
  mask : Word
  pattern : Word
  deriving DecidableEq, Repr

/-- The row of R78 an instruction belongs to. -/
def opcodeRow : Instr → OpcodeRow
  | .cls => ⟨"CLS", 0xF0FF, 0x00E0⟩
  | .ret => ⟨"RET", 0xF0FF, 0x00EE⟩
  | .jp _ => ⟨"JP_nnn", 0xF000, 0x1000⟩
  | .call _ => ⟨"CALL_nnn", 0xF000, 0x2000⟩
  | .seVxKk _ _ => ⟨"SE_Vx__kk", 0xF000, 0x3000⟩
  | .sneVxKk _ _ => ⟨"SNE_Vx__kk", 0xF000, 0x4000⟩
  | .seVxVy _ _ => ⟨"SE_Vx__Vy", 0xF00F, 0x5000⟩
  | .ldVxKk _ _ => ⟨"LD_Vx__kk", 0xF000, 0x6000⟩
  | .addVxKk _ _ => ⟨"ADD_Vx__kk", 0xF000, 0x7000⟩
  | .ldVxVy _ _ => ⟨"LD_Vx__Vy", 0xF00F, 0x8000⟩
  | .orVxVy _ _ => ⟨"OR_Vx__Vy", 0xF00F, 0x8001⟩
  | .andVxVy _ _ => ⟨"AND_Vx__Vy", 0xF00F, 0x8002⟩
  | .xorVxVy _ _ => ⟨"XOR_Vx__Vy", 0xF00F, 0x8003⟩
  | .addVxVy _ _ => ⟨"ADD_Vx__Vy", 0xF00F, 0x8004⟩
  | .subVxVy _ _ => ⟨"SUB_Vx__Vy", 0xF00F, 0x8005⟩
  | .shrVx _ _ => ⟨"SHR_Vx", 0xF00F, 0x8006⟩
  | .subnVxVy _ _ => ⟨"SUBN_Vx__Vy", 0xF00F, 0x8007⟩
  | .shlVx _ _ => ⟨"SHL_Vx", 0xF00F, 0x800E⟩
  | .sneVxVy _ _ => ⟨"SNE_Vx__Vy", 0xF00F, 0x9000⟩
  | .ldINnn _ => ⟨"LD_I__nnn", 0xF000, 0xA000⟩
  | .jpV0Nnn _ => ⟨"JP_V0__nnn", 0xF000, 0xB000⟩
  | .rndVxKk _ _ => ⟨"RND_Vx__kk", 0xF000, 0xC000⟩
  | .drwVxVyN _ _ _ => ⟨"DRW_Vx__Vy__n", 0xF000, 0xD000⟩
  | .skpVx _ => ⟨"SKP_Vx", 0xF0FF, 0xE09E⟩
  | .sknpVx _ => ⟨"SKNP_Vx", 0xF0FF, 0xE0A1⟩
  | .ldVxDT _ => ⟨"LD_Vx__DT", 0xF0FF, 0xF007⟩
  | .ldVxK _ => ⟨"LD_Vx__K", 0xF0FF, 0xF00A⟩
  | .ldDTVx _ => ⟨"LD_DT__Vx", 0xF0FF, 0xF015⟩
  | .ldSTVx _ => ⟨"LD_ST__Vx", 0xF0FF, 0xF018⟩
  | .addIVx _ => ⟨"ADD_I__Vx", 0xF0FF, 0xF01E⟩
  | .ldFVx _ => ⟨"LD_F__Vx", 0xF0FF, 0xF029⟩
  | .ldBVx _ => ⟨"LD_B__Vx", 0xF0FF, 0xF033⟩
  | .ldMemVx _ => ⟨"LD__I___Vx", 0xF0FF, 0xF055⟩
  | .ldVxMem _ => ⟨"LD_Vx___I", 0xF0FF, 0xF065⟩

/-- The 34 rows of R78, in its order (the operands given here are of no account: a row has none). -/
def opcodeRows : List OpcodeRow :=
  List.map opcodeRow
  [.cls, .ret, .jp 0, .call 0, .seVxKk 0 0, .sneVxKk 0 0, .seVxVy 0 0,
   .ldVxKk 0 0, .addVxKk 0 0, .ldVxVy 0 0, .orVxVy 0 0, .andVxVy 0 0, .xorVxVy 0 0, .addVxVy 0 0,
   .subVxVy 0 0, .shrVx 0 0, .subnVxVy 0 0, .shlVx 0 0, .sneVxVy 0 0, .ldINnn 0, .jpV0Nnn 0,
   .rndVxKk 0 0, .drwVxVyN 0 0 0, .skpVx 0, .sknpVx 0, .ldVxDT 0, .ldVxK 0, .ldDTVx 0,
   .ldSTVx 0, .addIVx 0, .ldFVx 0, .ldBVx 0, .ldMemVx 0, .ldVxMem 0]

/-- The word matches the row (R78). -/
def OpcodeRow.matches (r : OpcodeRow) (w : Word) : Bool := w &&& r.mask == r.pattern

/-- The row is in force on a machine with these parameters: all are, but 8xy0 only with HAS_8XY0 (R78, R124). -/
def OpcodeRow.admitted (p : Params) (r : OpcodeRow) : Bool := p.has8xy0 || r.pattern != 0x8000

/-! The encoder, from the layouts of R74. -/

/-- Layout NNN: op, nnn. -/
def packNnn (op : Nibble) (nnn : Addr) : Word := BitVec.ofNat 16 (op.toNat * 0x1000 + nnn.toNat)

/-- Layouts XKK and XFN: op, x, kk. -/
def packXkk (op : Nibble) (x : Reg) (kk : Byte) : Word :=
  BitVec.ofNat 16 (op.toNat * 0x1000 + x.toNat * 0x100 + kk.toNat)

/-- Layouts XYN and XY0: op, x, y, n. -/
def packXyn (op : Nibble) (x y : Reg) (n : Nibble) : Word :=
  BitVec.ofNat 16 (op.toNat * 0x1000 + x.toNat * 0x100 + y.toNat * 0x10 + n.toNat)

/-- The word of an instruction (R74, R78). The x nibble that CLS and RET ignore is written as 0. -/
def encode : Instr → Word
  | .cls => packNnn 0x0 0x0E0
  | .ret => packNnn 0x0 0x0EE
  | .jp nnn => packNnn 0x1 nnn
  | .call nnn => packNnn 0x2 nnn
  | .seVxKk x kk => packXkk 0x3 x kk
  | .sneVxKk x kk => packXkk 0x4 x kk
  | .seVxVy x y => packXyn 0x5 x y 0x0
  | .ldVxKk x kk => packXkk 0x6 x kk
  | .addVxKk x kk => packXkk 0x7 x kk
  | .ldVxVy x y => packXyn 0x8 x y 0x0
  | .orVxVy x y => packXyn 0x8 x y 0x1
  | .andVxVy x y => packXyn 0x8 x y 0x2
  | .xorVxVy x y => packXyn 0x8 x y 0x3
  | .addVxVy x y => packXyn 0x8 x y 0x4
  | .subVxVy x y => packXyn 0x8 x y 0x5
  | .shrVx x y => packXyn 0x8 x y 0x6
  | .subnVxVy x y => packXyn 0x8 x y 0x7
  | .shlVx x y => packXyn 0x8 x y 0xE
  | .sneVxVy x y => packXyn 0x9 x y 0x0
  | .ldINnn nnn => packNnn 0xA nnn
  | .jpV0Nnn nnn => packNnn 0xB nnn
  | .rndVxKk x kk => packXkk 0xC x kk
  | .drwVxVyN x y n => packXyn 0xD x y n
  | .skpVx x => packXkk 0xE x 0x9E
  | .sknpVx x => packXkk 0xE x 0xA1
  | .ldVxDT x => packXkk 0xF x 0x07
  | .ldVxK x => packXkk 0xF x 0x0A
  | .ldDTVx x => packXkk 0xF x 0x15
  | .ldSTVx x => packXkk 0xF x 0x18
  | .addIVx x => packXkk 0xF x 0x1E
  | .ldFVx x => packXkk 0xF x 0x29
  | .ldBVx x => packXkk 0xF x 0x33
  | .ldMemVx x => packXkk 0xF x 0x55
  | .ldVxMem x => packXkk 0xF x 0x65

end Sys2Proof
end

