-- ==== Sys2Proof/Machine/State.lean ====
section
/-! DEFINITION. The Machine State of spec/10_state.md as plain data, the reasons a step can stop, and the state after
construction (R40). -/

namespace Sys2Proof.Machine

/-- The fatal conditions (R36, R210). -/
inductive FatalKind where
  /-- CALL with sp = 16 -/
  | stackOverflow
  /-- RET with sp = 0 -/
  | stackUnderflow
  /-- a fetch with pc above 4094 -/
  | fetchOutOfBounds
  deriving DecidableEq, Repr

/-- Why an operation stops the machine. -/
inductive Fault where
  /-- `step` and every state-changing host operation raise it once a fatal error has ended the session: R211 refuses
  them, "the state is a final faulted state", and spec/93 (U6) treats this as a fault. Safe: the machine has no run past it. -/
  | sessionOver (k : FatalKind)
  deriving DecidableEq, Repr

/-- Why the model gives an instruction no meaning. -/
inductive Refusal where
  /-- raised by an arm of `exec` whose instruction has no meaning yet; there is none left. Safe. -/
  | notModelled (mnemonic : String)
  deriving DecidableEq, Repr

/-- A record of the diagnostic channel: its kind with the data R213 gives it. `addr` is the address of the raising
instruction and `word` its instruction word. -/
inductive Diag where
  | unknownOpcode (addr word : Word)
  | invalidKeyIndex (addr word : Word) (value : Byte)
  | bcdOutOfBounds (addr word index : Word)
  | storeOutOfBounds (addr word index : Word) (count : Nat)
  | loadOutOfBounds (addr word index : Word) (count : Nat)
  /-- raised by a host key operation: only the key index (R213) -/
  | invalidKeyEvent (value : Nat)
  deriving DecidableEq, Repr

/-- The two states of the engine (R35). -/
inductive Mode where
  | running
  | awaitingKey
  deriving DecidableEq, Repr

/-- The cells of memory that differ from their reset contents, by strictly rising address (R20, log entry 4). -/
abbrev Memory := List Host.Cell

/-- The 64 x 32 grid, first by column and then by row: fb[px][py] (R32). -/
abbrev Framebuffer := Vector (Vector Bool 32) 64

/-- The Machine State (spec/10_state.md, section 1), and two fields of the model's own, the last two. -/
structure State where
  /-- mem (R20) -/
  mem : Memory
  /-- V[0] to V[15] (R21); V[15] is VF (R22) -/
  v : Vector Byte 16
  /-- the index register I (R24) -/
  iReg : Word
  /-- the program counter (R25) -/
  pc : Word
  /-- the return addresses (R28); entries at and above sp are stale -/
  stack : Vector Word 16
  /-- the number of stack entries in use, 0 to 16 (R28) -/
  sp : Fin 17
  /-- the delay timer DT (R31) -/
  dt : Byte
  /-- the sound timer ST (R31) -/
  st : Byte
  /-- the framebuffer (R32) -/
  fb : Framebuffer
  /-- the framebuffer has changed since the host cleared this flag (R33) -/
  dirty : Bool
  /-- the key lines, true for pressed (R34) -/
  keys : Vector Bool 16
  /-- Running or AwaitingKey (R35) -/
  mode : Mode
  /-- the register that a key wait will write (R35) -/
  waitReg : Reg
  /-- the fatal condition that has ended the session, if one has (R36) -/
  halted : Option FatalKind
  /-- the diagnostic channel, oldest record first (R37) -/
  diag : List Diag
  /-- the model's own: the OPEN parameters of R6, which no operation writes (log entry 1) -/
  params : Params
  /-- the model's own: how many bytes RND has drawn, so that each draw is a free value of its own (R13, log entry 2) -/
  draws : Nat
  deriving DecidableEq, Repr

/-- The state construction yields for given parameters (R40). Memory lists nothing: every cell holds its reset contents. -/
def State.constructed (p : Params) : State where
  mem := []
  v := Vector.replicate 16 0
  iReg := 0
  pc := 0x200
  stack := Vector.replicate 16 0
  sp := 0
  dt := 0
  st := 0
  fb := Vector.replicate 64 (Vector.replicate 32 false)
  dirty := false
  keys := Vector.replicate 16 false
  mode := .running
  waitReg := 0
  halted := none
  diag := []
  params := p
  draws := 0

/-- The machine right after reset, which is construction (R40, R250), at the default parameters of R6. -/
def State.reset : State := State.constructed Params.standard

end Sys2Proof.Machine
end

