-- ==== Sys2Proof/Machine/Ops.lean ====
section
/-! DEFINITION. The named operations over the state: setters, memory, registers, stack, pixels, errors, and the reads the
host has. There is no trap entry and no return from one on this hardware (R217, R218): raising a fatal error and reporting
a diagnostic are the two shared operations in their place. -/

namespace Sys2Proof.Machine

/-! One setter for each part of the state. -/

/-- Write the memory cells. -/
def State.setMem (s : State) (m : Memory) : State := { s with mem := m }

/-- Write the whole register file. -/
def State.setV (s : State) (v : Vector Byte 16) : State := { s with v := v }

/-- I <- a (R24). -/
def State.setI (s : State) (a : Word) : State := { s with iReg := a }

/-- pc <- a (R10). -/
def State.setPc (s : State) (a : Word) : State := { s with pc := a }

/-- Write the return stack and its pointer. -/
def State.setStack (s : State) (st : Vector Word 16) (n : Fin 17) : State := { s with stack := st, sp := n }

/-- DT <- b (R31). -/
def State.setDT (s : State) (b : Byte) : State := { s with dt := b }

/-- ST <- b (R31). -/
def State.setST (s : State) (b : Byte) : State := { s with st := b }

/-- Write the framebuffer, leaving the dirty flag (R32). -/
def State.setFb (s : State) (f : Framebuffer) : State := { s with fb := f }

/-- Write the dirty flag (R33). -/
def State.setDirty (s : State) (d : Bool) : State := { s with dirty := d }

/-- Write the key lines (R34). -/
def State.setKeys (s : State) (k : Vector Bool 16) : State := { s with keys := k }

/-- Write the engine's state (R35). -/
def State.setMode (s : State) (m : Mode) : State := { s with mode := m }

/-- Write the target register of a key wait (R35). -/
def State.setWaitReg (s : State) (x : Reg) : State := { s with waitReg := x }

/-- Advance the count of random draws (R13, log entry 2). -/
def State.bumpDraws (s : State) : State := { s with draws := s.draws + 1 }

/-! Errors. -/

/-- raise Fatal(k): the session is over and nothing else is written (R12, R211). -/
def State.raiseFatal (s : State) (k : FatalKind) : State := { s with halted := some k }

/-- report Diag(d): one record is appended (R12, R213). -/
def State.report (s : State) (d : Diag) : State := { s with diag := s.diag ++ [d] }

/-- The numeric code of a fatal kind (R210). -/
def FatalKind.code : FatalKind → Nat
  | .stackOverflow => 1
  | .stackUnderflow => 2
  | .fetchOutOfBounds => 3

/-- The numeric code of a diagnostic's kind (R212). -/
def Diag.code : Diag → Nat
  | .unknownOpcode _ _ => 16
  | .invalidKeyIndex _ _ _ => 17
  | .bcdOutOfBounds _ _ _ => 18
  | .storeOutOfBounds _ _ _ _ => 19
  | .loadOutOfBounds _ _ _ _ => 20
  | .invalidKeyEvent _ => 21

/-- A state-changing operation is refused once a fatal error has ended the session; otherwise it gives r (R211). -/
def State.unlessHalted {α : Type} (s : State) (r : α) : Host.Outcome α Fault Refusal :=
  match s.halted with
  | some k => .fault (.sessionOver k)
  | none => .next r

/-! Memory. `d` is what an unlisted address reads as. -/

/-- The byte at an address: the listed one, else d of it. -/
def Memory.read (d : Nat → Byte) : Memory → Nat → Byte
  | [], a => d a
  | (b, u) :: m, a => if a = b then u else Memory.read d m a

/-- The list without any cell at address a. -/
def Memory.erase (a : Nat) : Memory → Memory
  | [] => []
  | (b, u) :: m => if a = b then Memory.erase a m else (b, u) :: Memory.erase a m

/-- The list with a cell put before the first one of a higher address. -/
def Memory.insert (a : Nat) (x : Byte) : Memory → Memory
  | [] => [(a, x)]
  | (b, u) :: m => if a < b then (a, x) :: (b, u) :: m else (b, u) :: Memory.insert a x m

/-- Write a byte, listing it only if it differs from d of its address. -/
def Memory.write (d : Nat → Byte) (m : Memory) (a : Nat) (x : Byte) : Memory :=
  if x = d a then Memory.erase a m else Memory.insert a x (Memory.erase a m)

/-- The canonical form from address lo on: addresses strictly rise from lo, stay below MEM_SIZE, and no byte equals d of
its address. -/
def Memory.wfFrom (d : Nat → Byte) : Nat → Memory → Bool
  | _, [] => true
  | lo, (b, u) :: m => decide (lo ≤ b) && decide (b < Config.memSize) && decide (u ≠ d b) && Memory.wfFrom d (b + 1) m

/-- The canonical form of memory (log entry 4). -/
def Memory.wf (d : Nat → Byte) (m : Memory) : Bool := Memory.wfFrom d 0 m

/-- The memory of a state is in canonical form. -/
def State.memWf (s : State) : Bool := Memory.wf s.params.resetByte s.mem

/-- MemRead(a, 1): defined only below MEM_SIZE (R11, R57). -/
def State.memRead? (s : State) (a : Nat) : Option Byte :=
  if a < Config.memSize then some (Memory.read s.params.resetByte s.mem a) else none

/-- MemWrite(a, 1, x), for an address its caller has checked (R11). -/
def State.memWrite (s : State) (a : Nat) (x : Byte) : State :=
  s.setMem (Memory.write s.params.resetByte s.mem a x)

/-- Single-byte writes at ascending addresses (R53, R55), for a range its caller has checked. -/
def State.writeBytes : State → Nat → List Byte → State
  | s, _, [] => s
  | s, a, x :: xs => State.writeBytes (s.memWrite a x) (a + 1) xs

/-- Store bytes from address a on if every one of them lies below MEM_SIZE, by exact integers; otherwise nothing is
written (R57). -/
def State.storeBytes? (s : State) (a : Nat) (xs : List Byte) : Option State :=
  if a + xs.length ≤ Config.memSize then some (s.writeBytes a xs) else none

/-- Store bytes from address a on, or, if one of them would lie at or above MEM_SIZE, write nothing and report d (R57). -/
def State.storeOrReport (s : State) (a : Nat) (xs : List Byte) (d : Diag) : State :=
  match s.storeBytes? a xs with
  | some s' => s'
  | none => s.report d

/-- Read n bytes from address a on if every one of them lies below MEM_SIZE, by exact integers (R57). -/
def State.loadBytes? (s : State) : Nat → Nat → Option (List Byte)
  | _, 0 => some []
  | a, n + 1 =>
    match s.memRead? a, State.loadBytes? s (a + 1) n with
    | some x, some xs => some (x :: xs)
    | _, _ => none

/-! Registers. -/

/-- V[x] (R21). -/
def State.reg (s : State) (x : Reg) : Byte := s.v[x.toNat]

/-- V[x] <- b (R21). -/
def State.setReg (s : State) (x : Reg) (b : Byte) : State := s.setV (s.v.set x.toNat b)

/-- The index of VF (R22). -/
abbrev vf : Reg := 15#4

/-- Write bytes to V[j], V[j+1] and so on, in ascending order (R155); a byte past V[15] would be dropped, and no
instruction has one. -/
def State.setRegsFrom : State → Nat → List Byte → State
  | s, _, [] => s
  | s, j, b :: bs => State.setRegsFrom (if j < 16 then s.setReg (BitVec.ofNat 4 j) b else s) (j + 1) bs

/-! The call stack. -/

/-- Push(a): nothing if sp = 16 (R29). -/
def State.push? (s : State) (a : Word) : Option State :=
  if h : s.sp.val < 16 then some (s.setStack (s.stack.set s.sp.val a h) ⟨s.sp.val + 1, by omega⟩) else none

/-- Pop(): the value and the state, or nothing if sp = 0. The value stays in its entry (R30). -/
def State.pop? (s : State) : Option (Word × State) :=
  if h : 0 < s.sp.val then
    some (s.stack[s.sp.val - 1]'(by omega), s.setStack s.stack ⟨s.sp.val - 1, by omega⟩)
  else none

/-! The program counter. -/

/-- The fetch's own advance (R71). -/
def State.advance (s : State) : State := s.setPc (s.pc + 2)

/-- The address of the executing instruction, pc - 2 (R25, R213). -/
def State.insnAddr (s : State) : Word := s.pc - 2

/-- Skip the next instruction if c holds; 16-bit, with no bound check (R103, decision D22). -/
def State.skipIf (s : State) (c : Bool) : State := if c then s.setPc (s.pc + 2) else s

/-- Fetch16(pc): the big-endian word at pc, or nothing if fewer than two bytes remain (R52, R71). -/
def State.fetch16? (s : State) : Option Word :=
  match s.memRead? s.pc.toNat, s.memRead? (s.pc.toNat + 1) with
  | some hi, some lo => some (wordOfBytes hi lo)
  | _, _ => none

/-- Store the bytes of an instruction where the next fetch reads it (a host load of them at pc); if they do not fit below
MEM_SIZE no fetch could read them, and nothing is stored. -/
def State.placeAtPc (s : State) (bytes : List Byte) : State :=
  (s.storeBytes? s.pc.toNat bytes).getD s

/-! Pixels (R32, R171). -/

/-- The pixel named by (x, y): fb[x mod 64][y mod 32]. -/
def fbGet (f : Framebuffer) (x y : Nat) : Bool := (f[x % 64])[y % 32]

/-- The framebuffer with the pixel named by (x, y) flipped. -/
def fbFlip (f : Framebuffer) (x y : Nat) : Framebuffer :=
  f.set (x % 64) ((f[x % 64]).set (y % 32) (!fbGet f x y))

/-- getPixel(x, y) (R171). -/
def State.getPixel (s : State) (x y : Nat) : Bool := fbGet s.fb x y

/-- setPixel(x, y): flip the pixel and return what it was; dirty is not set (R171). -/
def State.flipPixel (s : State) (x y : Nat) : State × Bool := (s.setFb (fbFlip s.fb x y), fbGet s.fb x y)

end Sys2Proof.Machine
end

