-- ==== Sys2Proof/Machine/Flags.lean ====
section
/-! DEFINITION. The flag results, which VF is the only place for (R22, R39, R122). -/

namespace Sys2Proof.Machine

/-- b2u of R9, as a byte. -/
def b2u (c : Bool) : Byte := if c then 1 else 0

/-- The carry of V[x] + V[y]: 1 iff the exact sum is above 255 (R128). -/
def carryFlag (p q : Byte) : Byte := b2u (decide (p.toNat + q.toNat > 255))

/-- No borrow in p - q: 1 iff p >= q (R129, R131). -/
def noBorrowFlag (p q : Byte) : Byte := b2u (decide (p.toNat ≥ q.toNat))

/-- The bit a right shift moves out (R130). -/
def shrFlag (p : Byte) : Byte := p &&& 1

/-- The bit a left shift moves out (R132). -/
def shlFlag (p : Byte) : Byte := p >>> 7

/-- Write an 8xyN result to V[x] and after that its flag to VF, so that with x = 15 the flag stays (R123). -/
def State.setResultThenFlag (s : State) (x : Reg) (r flag : Byte) : State := (s.setReg x r).setReg vf flag

/-- Write the result of OR, AND or XOR, and then VF <- 0 if LOGIC_VF = zero (R125 to R127). -/
def State.setLogicResult (s : State) (x : Reg) (r : Byte) : State :=
  match s.params.logicVf with
  | .unchanged => s.setReg x r
  | .zero => s.setResultThenFlag x r 0

end Sys2Proof.Machine
end

