-- ==== Sys2Proof/Machine/Operands.lean ====
section
/-! DEFINITION. The operand forms beyond a plain register or immediate: zero-extension, glyph addresses, decimal digits,
register ranges, key indices and sprite rows (R75, R152 to R155, R172, R192). -/

namespace Sys2Proof.Machine

/-- zext_16 of the address operand (R75). -/
def zextAddr (nnn : Addr) : Word := nnn.setWidth 16

/-- zext_16 of a register's byte (R9). -/
def zextByte (b : Byte) : Word := b.setWidth 16

/-- The address of the glyph of the low nibble of b (R152). -/
def glyphAddr (b : Byte) : Word :=
  BitVec.ofNat 16 (Config.glyphBase + (b.toNat % 16) * Config.glyphSize)

/-- The hundreds, tens and units digits of b (R153). -/
def bcdDigits (b : Byte) : List Byte :=
  [BitVec.ofNat 8 (b.toNat / 100), BitVec.ofNat 8 ((b.toNat / 10) % 10), BitVec.ofNat 8 (b.toNat % 10)]

/-- V[0] to V[x] in ascending order (R154). -/
def State.regsUpTo (s : State) (x : Reg) : List Byte := s.v.toList.take (x.toNat + 1)

/-- The number of registers the bulk transfers move, x + 1 (R154, R155). -/
def bulkCount (x : Reg) : Nat := x.toNat + 1

/-- A key index: it must be at most 0xF (R192, R232, R233). -/
def keyLine? (k : Nat) : Option Reg := if k ≤ 0xF then some (BitVec.ofNat 4 k) else none

/-- The state of a key line (R34). -/
def State.key (s : State) (k : Reg) : Bool := s.keys[k.toNat]

/-- Write a key line (R34). -/
def State.setKey (s : State) (k : Reg) (b : Bool) : State := s.setKeys (s.keys.set k.toNat b)

/-- The sprite rows DRW reads: up to n bytes from address a on, stopping at the end of memory (R57, R172). -/
def State.spriteRows (s : State) : Nat → Nat → List Byte
  | _, 0 => []
  | a, n + 1 =>
    match s.memRead? a with
    | some row => row :: State.spriteRows s (a + 1) n
    | none => []

end Sys2Proof.Machine
end

