-- ==== Sys2Proof/Machine/Control.lean ====
section
/-! DEFINITION. Control flow: RET, JP, CALL, the register skips and JP V0 (spec/40_control_flow.md). In every meaning pc
is already the instruction's address plus 2 (R71). -/

namespace Sys2Proof.Machine

/-- RET (R100): fatal on an empty stack, with pc and sp left as they are. -/
def execRet (s : State) : Host.Outcome State Fault Refusal :=
  .next (match s.pop? with
    | some (a, s') => s'.setPc a
    | none => s.raiseFatal .stackUnderflow)

/-- JP nnn (R101). -/
def execJp (nnn : Addr) (s : State) : Host.Outcome State Fault Refusal :=
  .next (s.setPc (zextAddr nnn))

/-- CALL nnn (R102): it pushes the advanced pc; fatal on a full stack, with nothing pushed and no jump. -/
def execCall (nnn : Addr) (s : State) : Host.Outcome State Fault Refusal :=
  .next (match s.push? s.pc with
    | some s' => s'.setPc (zextAddr nnn)
    | none => s.raiseFatal .stackOverflow)

/-- SE Vx, kk (R103). -/
def execSeVxKk (x : Reg) (kk : Byte) (s : State) : Host.Outcome State Fault Refusal :=
  .next (s.skipIf (s.reg x == kk))

/-- SNE Vx, kk (R104). -/
def execSneVxKk (x : Reg) (kk : Byte) (s : State) : Host.Outcome State Fault Refusal :=
  .next (s.skipIf (s.reg x != kk))

/-- SE Vx, Vy (R105). -/
def execSeVxVy (x y : Reg) (s : State) : Host.Outcome State Fault Refusal :=
  .next (s.skipIf (s.reg x == s.reg y))

/-- SNE Vx, Vy (R106). -/
def execSneVxVy (x y : Reg) (s : State) : Host.Outcome State Fault Refusal :=
  .next (s.skipIf (s.reg x != s.reg y))

/-- JP V0, nnn (R107): the sum is at most 0x10FE and is not reduced to 12 bits. -/
def execJpV0Nnn (nnn : Addr) (s : State) : Host.Outcome State Fault Refusal :=
  .next (s.setPc (zextByte (s.reg 0) + zextAddr nnn))

end Sys2Proof.Machine
end

