-- ==== Sys2Proof/Machine/Display.lean ====
section
/-! DEFINITION. Clear and sprite blit (spec/43_display.md). -/

namespace Sys2Proof.Machine

/-- CLS (R170). -/
def execCls (s : State) : Host.Outcome State Fault Refusal :=
  .next ((s.setFb (Vector.replicate 64 (Vector.replicate 32 false))).setDirty true)

/-- A framebuffer being drawn on, and whether a lit pixel has been hit so far. -/
structure Canvas where
  fb : Framebuffer
  hit : Bool
  deriving DecidableEq, Repr

/-- setPixel for one set sprite bit; a hit is sticky (R171, R172). -/
def plot (c : Canvas) (x y : Nat) : Canvas := ⟨fbFlip c.fb x y, c.hit || fbGet c.fb x y⟩

/-- Draw the k lowest bits of a sprite row, from bit k - 1 down: bit k - 1 is column 8 - k of the sprite, and bit 7 the
leftmost (R172). -/
def blitBits (row : Byte) (cx cy : Nat) : Nat → Canvas → Canvas
  | 0, c => c
  | k + 1, c => blitBits row cx cy k (if row.getLsbD k then plot c (cx + (7 - k)) cy else c)

/-- Draw the sprite rows one below the other (R172). -/
def blitRows (cx : Nat) : Nat → List Byte → Canvas → Canvas
  | _, [], c => c
  | cy, row :: rows, c => blitRows cx (cy + 1) rows (blitBits row cx cy 8 c)

/-- DRW Vx, Vy, n (R172): the coordinates are read before VF is written, rows past the end of memory are dropped, and the
framebuffer is always marked dirty. Nothing reads VF between its clearing and the end, so the collision is written once. -/
def execDrwVxVyN (x y : Reg) (n : Nibble) (s : State) : Host.Outcome State Fault Refusal :=
  let c := blitRows (s.reg x).toNat (s.reg y).toNat (s.spriteRows s.iReg.toNat n.toNat) ⟨s.fb, false⟩
  .next (((s.setFb c.fb).setDirty true).setReg vf (b2u c.hit))

end Sys2Proof.Machine
end

