-- ==== Sys2Proof/Machine/Index.lean ====
section
/-! DEFINITION. The index register and the memory transfers (spec/42_index_memory.md). The three memory forms check their
whole range first and leave I as it is. -/

namespace Sys2Proof.Machine

/-- LD I, nnn (R150). -/
def execLdINnn (nnn : Addr) (s : State) : Host.Outcome State Fault Refusal :=
  .next (s.setI (zextAddr nnn))

/-- ADD I, Vx (R151): modulo 65536, and no flag. -/
def execAddIVx (x : Reg) (s : State) : Host.Outcome State Fault Refusal :=
  .next (s.setI (s.iReg + zextByte (s.reg x)))

/-- LD F, Vx (R152). -/
def execLdFVx (x : Reg) (s : State) : Host.Outcome State Fault Refusal :=
  .next (s.setI (glyphAddr (s.reg x)))

/-- LD B, Vx (R153). -/
def execLdBVx (x : Reg) (s : State) : Host.Outcome State Fault Refusal :=
  .next (s.storeOrReport s.iReg.toNat (bcdDigits (s.reg x)) (.bcdOutOfBounds s.insnAddr (encode (.ldBVx x)) s.iReg))

/-- LD [I], Vx (R154). -/
def execLdMemVx (x : Reg) (s : State) : Host.Outcome State Fault Refusal :=
  .next (s.storeOrReport s.iReg.toNat (s.regsUpTo x)
    (.storeOutOfBounds s.insnAddr (encode (.ldMemVx x)) s.iReg (bulkCount x)))

/-- LD Vx, [I] (R155). -/
def execLdVxMem (x : Reg) (s : State) : Host.Outcome State Fault Refusal :=
  .next (match s.loadBytes? s.iReg.toNat (bulkCount x) with
    | some bs => s.setRegsFrom 0 bs
    | none => s.report (.loadOutOfBounds s.insnAddr (encode (.ldVxMem x)) s.iReg (bulkCount x)))

end Sys2Proof.Machine
end

