-- ==== Sys2Proof/Machine/Input.lean ====
section
/-! DEFINITION. Key tests, the key wait and the timer transfers (spec/44_timers_input.md). -/

namespace Sys2Proof.Machine

/-- The key test shared by SKP and SKNP: on an index above 0xF one diagnostic and no skip (R192); otherwise skip if the
line is in the wanted state. -/
def State.skipOnKey (s : State) (i : Instr) (b : Byte) (wanted : Bool) : State :=
  match keyLine? b.toNat with
  | some k => s.skipIf (s.key k == wanted)
  | none => s.report (.invalidKeyIndex s.insnAddr (encode i) b)

/-- SKP Vx (R190). -/
def execSkpVx (x : Reg) (s : State) : Host.Outcome State Fault Refusal :=
  .next (s.skipOnKey (.skpVx x) (s.reg x) true)

/-- SKNP Vx (R191). -/
def execSknpVx (x : Reg) (s : State) : Host.Outcome State Fault Refusal :=
  .next (s.skipOnKey (.sknpVx x) (s.reg x) false)

/-- LD Vx, K (R194): V[x] is written later, by the key press that ends the wait. -/
def execLdVxK (x : Reg) (s : State) : Host.Outcome State Fault Refusal :=
  .next ((s.setMode .awaitingKey).setWaitReg x)

/-- LD Vx, DT (R193). -/
def execLdVxDT (x : Reg) (s : State) : Host.Outcome State Fault Refusal :=
  .next (s.setReg x s.dt)

/-- LD DT, Vx (R195). -/
def execLdDTVx (x : Reg) (s : State) : Host.Outcome State Fault Refusal :=
  .next (s.setDT (s.reg x))

/-- LD ST, Vx (R196). -/
def execLdSTVx (x : Reg) (s : State) : Host.Outcome State Fault Refusal :=
  .next (s.setST (s.reg x))

end Sys2Proof.Machine
end

