-- ==== Sys2Proof/Machine/Fetch.lean ====
section
/-! DEFINITION. What comes before the execute part of step(): the checks of R216 in their order, the fetch (R71) and the
decoding (R73, R79). -/

namespace Sys2Proof.Machine

/-- What a step finds before it executes anything. -/
inductive Fetched where
  /-- a fatal error has ended the session: R211 refuses the step -/
  | ended (k : FatalKind)
  /-- the engine awaits a key: the step changes nothing (R70) -/
  | waiting
  /-- fewer than two bytes are left at pc (R71) -/
  | outOfBounds
  /-- a word that is no instruction (R79) -/
  | unknown (w : Word)
  /-- an instruction -/
  | run (i : Instr)
  deriving DecidableEq, Repr

/-- The checks of R216 (1) to (4), in that order. -/
def State.fetched (s : State) : Fetched :=
  match s.halted, s.mode, s.fetch16? with
  | some k, _, _ => .ended k
  | none, .awaitingKey, _ => .waiting
  | none, .running, none => .outOfBounds
  | none, .running, some w =>
    match decodeWord s.params w with
    | .ok i => .run i
    | .error _ => .unknown w

/-- The fetch's failure: only halted is written (R71). -/
def State.failFetch (s : State) : State := s.raiseFatal .fetchOutOfBounds

/-- What an unknown word does: it is reported, and pc moves past it (R79). -/
def State.skipUnknown (s : State) (w : Word) : State :=
  s.advance.report (.unknownOpcode s.advance.insnAddr w)

end Sys2Proof.Machine
end

