-- ==== Sys2Proof/Machine/Step.lean ====
section
/-! DEFINITION. step() (R70), and how a test places the next instruction. -/

namespace Sys2Proof.Machine

/-- step(): exactly one instruction, a no-op while a key is awaited, refused once the session is over (R70). -/
def step (s : State) : Host.Outcome State Fault Refusal :=
  match s.fetched with
  | .ended k => .fault (.sessionOver k)
  | .waiting => .next s
  | .outOfBounds => .next s.failFetch
  | .unknown w => .next (s.skipUnknown w)
  | .run i => exec i s.advance

/-- The state with the opcode table's word w stored at pc, where the next fetch of a running session reads it. It stands for
the host's load of the program (R235, R252; log entry 5) and changes nothing but those two bytes. -/
def State.withFetchWord (s : State) (nbits w : Nat) : State := s.placeAtPc (tableWordBytes nbits w)

end Sys2Proof.Machine
end

