-- ==== Sys2Proof/Machine/Ports.lean ====
section
/-! DEFINITION. The host's operations on the core: timers, keys, program load, presentation and pixels (R230 to R237).
Each is atomic, and each that changes state is refused once a fatal error has ended the session (R211). -/

namespace Sys2Proof.Machine

/-- One timer counted down, floored at 0 (R230). -/
def countDown (b : Byte) : Byte := if b.toNat > 0 then b - 1 else b

/-- tick() (R230): in either mode of the engine. -/
def tick (s : State) : Host.Outcome State Fault Refusal :=
  s.unlessHalted ((s.setDT (countDown s.dt)).setST (countDown s.st))

/-- soundActive(): true iff ST > 0; a read, never refused (R231). -/
def soundActive (s : State) : Bool := decide (s.st.toNat > 0)

/-- What a valid key press does to the engine: it ends a wait, writing the key's index (R232). -/
def State.endWait (s : State) (k : Nat) : State :=
  match s.mode with
  | .running => s
  | .awaitingKey => (s.setReg s.waitReg (BitVec.ofNat 8 k)).setMode .running

/-- keyPress(k) (R232). -/
def keyPress (k : Nat) (s : State) : Host.Outcome State Fault Refusal :=
  s.unlessHalted
    (match keyLine? k with
    | some line => (s.setKey line true).endWait k
    | none => s.report (.invalidKeyEvent k))

/-- keyRelease(k): it never ends a wait (R233). -/
def keyRelease (k : Nat) (s : State) : Host.Outcome State Fault Refusal :=
  s.unlessHalted
    (match keyLine? k with
    | some line => s.setKey line false
    | none => s.report (.invalidKeyEvent k))

/-- clearDirty() (R234). -/
def clearDirty (s : State) : Host.Outcome State Fault Refusal := s.unlessHalted (s.setDirty false)

/-- The results of a load (R235). -/
inductive LoadResult where
  | loadOk
  | loadTooLarge
  | loadUnreadable
  deriving DecidableEq, Repr

/-- What load(b) does to a running session (R235): copy the image to 0x200 and on, or nothing if it is too large. -/
def State.loadImage (s : State) (b : List Byte) : State × LoadResult :=
  if b.length > Config.progMax then (s, .loadTooLarge) else (s.writeBytes Config.progBase b, .loadOk)

/-- load(b) (R235). -/
def load (b : List Byte) (s : State) : Host.Outcome (State × LoadResult) Fault Refusal :=
  s.unlessHalted (s.loadImage b)

/-- A load whose source the host could not read: reported, with memory unmodified (R235, spec/93 U9; log entry 6). -/
def loadUnreadable (s : State) : Host.Outcome (State × LoadResult) Fault Refusal :=
  s.unlessHalted (s, .loadUnreadable)

/-- getPixel(x, y) as a port: a read, never refused (R236). -/
def getPixel (x y : Nat) (s : State) : Bool := s.getPixel x y

/-- setPixel(x, y) as a port: it returns the previous value and does not set dirty (R171, R236). -/
def setPixel (x y : Nat) (s : State) : Host.Outcome (State × Bool) Fault Refusal :=
  s.unlessHalted (s.flipPixel x y)

end Sys2Proof.Machine
end

