-- ==== Sys2Proof/Machine/Session.lean ====
section
/-! DEFINITION. A session: construction (R250), then the core's operations one after another in whatever order the host
calls them (R14, R61, R62, R237), and how a run of them ends (R244). -/

namespace Sys2Proof.Machine

/-- Construction: the static check of R7, then the state of R40; nothing if the check fails (R250, spec/93 U17). -/
def construct (p : Params) : Option State :=
  if Config.layoutOk then some (State.constructed p) else none

/-- The operations that can change the state (R14). The reads getPixel, soundActive, fb, dirty, halted and diag change nothing. -/
inductive Op where
  | step
  | tick
  | keyPress (k : Nat)
  | keyRelease (k : Nat)
  | load (b : List Byte)
  | loadUnreadable
  | clearDirty
  | setPixel (x y : Nat)
  deriving DecidableEq, Repr

/-- The state an operation leaves, without the result it returns to the host. -/
def stateOf {α : Type} : Host.Outcome (State × α) Fault Refusal → Host.Outcome State Fault Refusal
  | .next r => .next r.1
  | .fault f => .fault f
  | .refused r => .refused r

/-- One operation of the host. -/
def applyOp (o : Op) (s : State) : Host.Outcome State Fault Refusal :=
  match o with
  | .step => Machine.step s
  | .tick => Machine.tick s
  | .keyPress k => Machine.keyPress k s
  | .keyRelease k => Machine.keyRelease k s
  | .load b => stateOf (Machine.load b s)
  | .loadUnreadable => stateOf (Machine.loadUnreadable s)
  | .clearDirty => Machine.clearDirty s
  | .setPixel x y => stateOf (Machine.setPixel x y s)

/-- A sequence of operations, stopping at the first that is refused (R62). -/
def runOps : List Op → State → Host.Outcome State Fault Refusal
  | [], s => .next s
  | o :: os, s =>
    match applyOp o s with
    | .next s' => runOps os s'
    | .fault f => .fault f
    | .refused r => .refused r

/-- How a run has ended, the end-of-run definition R244 asks of a model (log entry 11). There is no successful end among them:
whether a run did what it should is for the claim about it to say. -/
inductive RunEnd where
  /-- the host ceased to call a session that was executing instructions; a program that spins on a jump to itself is here too -/
  | ceased
  /-- the host ceased to call a session that was waiting for a key for V[x]: no step would have gone on (spec/93 U16) -/
  | waiting (x : Reg)
  /-- a fatal error ended the session -/
  | fatal (k : FatalKind)
  deriving DecidableEq, Repr

/-- How a run has ended whose last operation left this state. -/
def State.runEnd (s : State) : RunEnd :=
  match s.halted, s.mode with
  | some k, _ => .fatal k
  | none, .awaitingKey => .waiting s.waitReg
  | none, .running => .ceased

/-- How the run of a sequence of operations ends (R244): by a fatal error also where the host calls on after it and is refused,
and otherwise by the host ceasing to call. -/
def endOfRun (os : List Op) (s : State) : Host.Outcome RunEnd Fault Refusal :=
  match runOps os s with
  | .next t => .next t.runEnd
  | .fault (.sessionOver k) => .next (.fatal k)
  | .refused r => .refused r

end Sys2Proof.Machine
end

