-- ==== Sys2Proof/Safety.lean ====
section
/-! DEFINITION. The terms the statements are written in: what an operation leaves alone, the invariant of the machine, and
the tables of which instruction writes what (R23, R26, R41). -/

namespace Sys2Proof.Machine

/-- The pieces of the state. -/
inductive Piece where
  | mem | v | iReg | pc | stack | sp | dt | st | fb | dirty | keys | mode | waitReg | halted | diag | params | draws
  deriving DecidableEq, Repr

/-- t agrees with s on one piece of the state; for memory, every byte reads the same. -/
def State.agree (s t : State) : Piece → Prop
  | .mem => ∀ a, t.memRead? a = s.memRead? a
  | .v => ∀ x, t.reg x = s.reg x
  | .iReg => t.iReg = s.iReg
  | .pc => t.pc = s.pc
  | .stack => t.stack = s.stack
  | .sp => t.sp = s.sp
  | .dt => t.dt = s.dt
  | .st => t.st = s.st
  | .fb => ∀ px py, t.getPixel px py = s.getPixel px py
  | .dirty => t.dirty = s.dirty
  | .keys => ∀ k, t.key k = s.key k
  | .mode => t.mode = s.mode
  | .waitReg => t.waitReg = s.waitReg
  | .halted => t.halted = s.halted
  | .diag => t.diag = s.diag
  | .params => t.params = s.params
  | .draws => t.draws = s.draws

/-- From s to t nothing changes but, perhaps, the named pieces. -/
def sameBut (ps : List Piece) (s t : State) : Prop := ∀ p, p ∉ ps → s.agree t p

/-- From s to t no register changes but, perhaps, the named ones. -/
def regsBut (xs : List Reg) (s t : State) : Prop := ∀ x, x ∉ xs → t.reg x = s.reg x

/-- From s to t no byte of memory changes but, perhaps, the n bytes from address lo on. -/
def memBut (lo n : Nat) (s t : State) : Prop :=
  ∀ a, ¬(lo ≤ a ∧ a < lo + n) → t.memRead? a = s.memRead? a

/-- Every word of a pattern under a mask decodes, whatever the parameters, to the instruction `mk` reads from its fields. The
numeric values of the masks, patterns and fields are the spec's own choice (decisions D2, D3: general knowledge; log entry 7). -/
def Encodes (mask pattern : Word) (mk : Word → Instr) : Prop :=
  ∀ p w, w &&& mask = pattern → decodeWord p w = .ok (mk w)

/-- Some bit that is set in the sprite of n rows at I, drawn with its top-left pixel at column cx and row cy, lands on the
pixel (px, py) (R172). -/
def spriteCovers (s : State) (cx cy n px py : Nat) : Prop :=
  ∃ r c row, r < n ∧ c < 8 ∧ s.memRead? (s.iReg.toNat + r) = some row ∧ row.getLsbD (7 - c) = true ∧
    (cx + c) % 64 = px ∧ (cy + r) % 32 = py

/-- Call one subroutine from within another, with no return (R29). -/
def callChain : List Addr → State → Host.Outcome State Fault Refusal
  | [], s => .next s
  | a :: as, s =>
    match exec (.call a) s with
    | .next t => callChain as t
    | .fault f => .fault f
    | .refused r => .refused r

/-! The invariant. -/

/-- A diagnostic record that the machine could have made: its condition of R212 holds for the data it carries. -/
def Diag.justified (p : Params) : Diag → Prop
  | .unknownOpcode addr word => addr.toNat ≤ 4094 ∧ ∀ i, decodeWord p word ≠ .ok i
  | .invalidKeyIndex addr _ value => addr.toNat ≤ 4094 ∧ 0xF < value.toNat
  | .bcdOutOfBounds addr _ index => addr.toNat ≤ 4094 ∧ 4096 ≤ index.toNat + 2
  | .storeOutOfBounds addr _ index count =>
    addr.toNat ≤ 4094 ∧ 1 ≤ count ∧ count ≤ 16 ∧ 4096 ≤ index.toNat + (count - 1)
  | .loadOutOfBounds addr _ index count =>
    addr.toNat ≤ 4094 ∧ 1 ≤ count ∧ count ≤ 16 ∧ 4096 ≤ index.toNat + (count - 1)
  | .invalidKeyEvent value => 0xF < value

/-- What a fatal error leaves (R210, last column), and that it never leaves a key wait behind it. -/
def State.haltedPrecisely (s : State) : Prop :=
  match s.halted with
  | none => True
  | some .stackOverflow => s.sp.val = 16 ∧ s.mode = .running
  | some .stackUnderflow => s.sp.val = 0 ∧ s.mode = .running
  | some .fetchOutOfBounds => 4094 < s.pc.toNat ∧ s.mode = .running

/-- The invariant of the machine: memory is in canonical form, pc and every return address stay in the range R27 gives,
a fatal error leaves what R210 says, and every diagnostic record is justified. -/
def Inv (s : State) : Prop :=
  s.memWf = true ∧
  s.pc.toNat ≤ 0x10FE ∧
  (∀ (j : Nat) (a : Word), s.stack[j]? = some a → a.toNat ≤ 4096) ∧
  s.haltedPrecisely ∧
  ∀ d ∈ s.diag, d.justified s.params

/-! What each instruction may write. -/

/-- The registers an instruction writes: the last column of R23's table (LD Vx, K writes V[x] only at the key press). -/
def regsWritten (p : Params) : Instr → List Reg
  | .cls => []
  | .ret => []
  | .jp _ => []
  | .call _ => []
  | .seVxKk _ _ => []
  | .sneVxKk _ _ => []
  | .seVxVy _ _ => []
  | .ldVxKk x _ => [x]
  | .addVxKk x _ => [x]
  | .ldVxVy x _ => [x]
  | .orVxVy x _ => if p.logicVf = .zero then [x, vf] else [x]
  | .andVxVy x _ => if p.logicVf = .zero then [x, vf] else [x]
  | .xorVxVy x _ => if p.logicVf = .zero then [x, vf] else [x]
  | .addVxVy x _ => [x, vf]
  | .subVxVy x _ => [x, vf]
  | .shrVx x _ => [x, vf]
  | .subnVxVy x _ => [x, vf]
  | .shlVx x _ => [x, vf]
  | .sneVxVy _ _ => []
  | .ldINnn _ => []
  | .jpV0Nnn _ => []
  | .rndVxKk x _ => [x]
  | .drwVxVyN _ _ _ => [vf]
  | .skpVx _ => []
  | .sknpVx _ => []
  | .ldVxDT x => [x]
  | .ldVxK _ => []
  | .ldDTVx _ => []
  | .ldSTVx _ => []
  | .addIVx _ => []
  | .ldFVx _ => []
  | .ldBVx _ => []
  | .ldMemVx _ => []
  | .ldVxMem x => (List.range (x.toNat + 1)).map (BitVec.ofNat 4)

/-- The pieces of the state the execute part of an instruction may write: R23, R26, R41 and the instruction rules; `draws` is
the model's own. -/
def piecesWritten : Instr → List Piece
  | .cls => [.fb, .dirty]
  | .ret => [.pc, .sp, .halted]
  | .jp _ => [.pc]
  | .call _ => [.pc, .stack, .sp, .halted]
  | .seVxKk _ _ => [.pc]
  | .sneVxKk _ _ => [.pc]
  | .seVxVy _ _ => [.pc]
  | .ldVxKk _ _ => [.v]
  | .addVxKk _ _ => [.v]
  | .ldVxVy _ _ => [.v]
  | .orVxVy _ _ => [.v]
  | .andVxVy _ _ => [.v]
  | .xorVxVy _ _ => [.v]
  | .addVxVy _ _ => [.v]
  | .subVxVy _ _ => [.v]
  | .shrVx _ _ => [.v]
  | .subnVxVy _ _ => [.v]
  | .shlVx _ _ => [.v]
  | .sneVxVy _ _ => [.pc]
  | .ldINnn _ => [.iReg]
  | .jpV0Nnn _ => [.pc]
  | .rndVxKk _ _ => [.v, .draws]
  | .drwVxVyN _ _ _ => [.v, .fb, .dirty]
  | .skpVx _ => [.pc, .diag]
  | .sknpVx _ => [.pc, .diag]
  | .ldVxDT _ => [.v]
  | .ldVxK _ => [.mode, .waitReg]
  | .ldDTVx _ => [.dt]
  | .ldSTVx _ => [.st]
  | .addIVx _ => [.iReg]
  | .ldFVx _ => [.iReg]
  | .ldBVx _ => [.mem, .diag]
  | .ldMemVx _ => [.mem, .diag]
  | .ldVxMem _ => [.v, .diag]

/-- The skips (R103 to R106, R190, R191). -/
def isSkip : Instr → Bool
  | .seVxKk _ _ | .sneVxKk _ _ | .seVxVy _ _ | .sneVxVy _ _ | .skpVx _ | .sknpVx _ => true
  | _ => false

end Sys2Proof.Machine
end

