-- ==== Sys2Proof/Certificates/Slice0/Obligations.lean ====
section
/-! DEFINITION. The statements for the provers, from the numbered rules of spec/. In every statement about `exec` the state
is the one after the fetch, with pc already 2 past the instruction (R71), so the instruction's address is pc - 2. `Encodes` in
a statement says which words are the instruction; their numeric values are the spec's own choice (decisions D2, D3). -/

open Sys2Proof Sys2Proof.Machine

/-! ## Reset and the invariant -/

/-- R40, R251, R7: what construction leaves, for every value of the OPEN parameters, and that the reset state is that
state at the defaults of R6. The values of dirty, waitReg, halted and diag are the spec's decisions D24, D17, D13, D15. -/
def Obligations.ConstructionLeavesResetValues : Prop :=
  State.reset = State.constructed Params.standard ∧
  ∀ p : Params,
    construct p = some (State.constructed p) ∧
    (∀ (a : Nat) (b : Byte), p.glyphs[a]? = some b → (State.constructed p).memRead? (0x050 + a) = some b) ∧
    (∀ a : Nat, a < 4096 → ¬(0x050 ≤ a ∧ a ≤ 0x09F) → (State.constructed p).memRead? a = some 0) ∧
    (∀ a : Nat, 4096 ≤ a → (State.constructed p).memRead? a = none) ∧
    (∀ x : Reg, (State.constructed p).reg x = 0) ∧
    (State.constructed p).iReg = 0 ∧ (State.constructed p).pc = 0x200 ∧
    (∀ (j : Nat) (a : Word), (State.constructed p).stack[j]? = some a → a = 0) ∧ (State.constructed p).sp = 0 ∧
    (State.constructed p).dt = 0 ∧ (State.constructed p).st = 0 ∧
    (∀ px py : Nat, (State.constructed p).getPixel px py = false) ∧ (State.constructed p).dirty = false ∧
    (∀ k : Reg, (State.constructed p).key k = false) ∧ (State.constructed p).mode = .running ∧
    (State.constructed p).waitReg = 0 ∧ (State.constructed p).halted = none ∧ (State.constructed p).diag = []

/-- The invariant holds right after construction, whatever the parameters. -/
def Obligations.ConstructedStateMeetsInvariant : Prop := ∀ p : Params, Inv (State.constructed p)

/-- R27, R28, R210, R212 as an invariant: every step from a state that meets it gives a state that meets it. What it
says of halted rests on decision D13 and on the model's reading of it (log entry 3). -/
def Obligations.StepKeepsInvariant : Prop :=
  ∀ s t : State, Inv s → step s = .next t → Inv t

/-- The same over any sequence of the host's operations, in any order (R62, R237; for halted, D13 and log entry 3). -/
def Obligations.SessionKeepsInvariant : Prop :=
  ∀ (ops : List Op) (s t : State), Inv s → runOps ops s = .next t → Inv t

/-! ## The step -/

/-- R70, R71, R52: when the two bytes at pc are the word of an instruction the machine has, a step of a running session is
that instruction's execution with pc advanced by 2, and nothing else around it. -/
def Obligations.StepRunsTheDecodedInstruction : Prop :=
  ∀ (s : State) (hi lo : Byte) (i : Instr),
    s.halted = none → s.mode = .running →
    s.memRead? s.pc.toNat = some hi → s.memRead? (s.pc.toNat + 1) = some lo →
    decode s.params [hi, lo] = .ok (i, []) →
    step s = exec i { s with pc := s.pc + 2 }

/-- R71: with fewer than two bytes left at pc the step is fatal and nothing but halted changes; otherwise the big-endian
word at pc is fetched and, known or unknown, it sees pc advanced by 2. That the failing step is a next state with halted set
rests on decision D13 and on the model's reading of it (log entry 3). -/
def Obligations.FetchIsBigEndianAndBounded : Prop :=
  ∀ s : State, s.halted = none → s.mode = .running →
    (4095 ≤ s.pc.toNat → ∃ t, step s = .next t ∧ t.halted = some .fetchOutOfBounds ∧ sameBut [.halted] s t) ∧
    (s.pc.toNat ≤ 4094 → ∃ (hi lo : Byte) (w : Word),
      s.memRead? s.pc.toNat = some hi ∧ s.memRead? (s.pc.toNat + 1) = some lo ∧
      w.toNat = hi.toNat * 256 + lo.toNat ∧
      (∀ i, decodeWord s.params w = .ok i → step s = exec i { s with pc := s.pc + 2 }) ∧
      ((∀ i, decodeWord s.params w ≠ .ok i) → ∃ t, step s = .next t ∧ t.pc = s.pc + 2))

/-- R79 (decision D31): an unknown word at pc appends one UnknownOpcode record with its address and itself, moves pc past
it, and changes nothing else. -/
def Obligations.UnknownWordIsReportedAndSkipped : Prop :=
  ∀ (s : State) (hi lo : Byte) (why : UnknownWord),
    s.halted = none → s.mode = .running →
    s.memRead? s.pc.toNat = some hi → s.memRead? (s.pc.toNat + 1) = some lo →
    decodeWord s.params (wordOfBytes hi lo) = .error why →
    ∃ t, step s = .next t ∧ t.pc = s.pc + 2 ∧
      t.diag = s.diag ++ [.unknownOpcode s.pc (wordOfBytes hi lo)] ∧ sameBut [.pc, .diag] s t

/-- R70, R216 (1) and (2) (decision D13; the fault is the model's form of "refuse", log entry 3): a step of an ended session
is refused, before anything else; a step while a key is awaited changes nothing, whatever stands at pc. -/
def Obligations.StepChecksHaltedThenWaiting : Prop :=
  ∀ s : State,
    (∀ k, s.halted = some k → step s = .fault (.sessionOver k)) ∧
    (s.halted = none → s.mode = .awaitingKey → step s = .next s)

/-! ## Encoding -/

/-- R73 to R78: decoding the encoding of any instruction the machine has gives it back, at every value of every operand. -/
def Obligations.DecodeInvertsEncode : Prop :=
  ∀ (p : Params) (i : Instr), WellFormed p i = true →
    decodeWord p (encode i) = .ok i ∧ decode p (bytesOfWord (encode i)) = .ok (i, [])

/-- R73 to R78, the other direction: what decodes to an instruction is its encoding, but for the x nibble that CLS and RET
ignore (R77, decision D4); the instruction is one the machine has, and the word matches its row of the opcode map. -/
def Obligations.DecodedWordIsTheEncoding : Prop :=
  ∀ (p : Params) (w : Word) (i : Instr), decodeWord p w = .ok i →
    WellFormed p i = true ∧ (opcodeRow i).matches w = true ∧ (opcodeRow i).admitted p = true ∧
    (if i = .cls ∨ i = .ret then encode i = w &&& 0xF0FF else encode i = w)

/-- R79, R80: a word is unknown exactly when it matches no row of the opcode map that the machine has, and no word matches
two rows. -/
def Obligations.UnknownExactlyWhenNoRowMatches : Prop :=
  ∀ (p : Params) (w : Word),
    ((∃ why, decodeWord p w = .error why) ↔ ∀ r ∈ opcodeRows, r.admitted p = true → r.matches w = false) ∧
    (opcodeRows.filter (fun r => r.matches w)).length ≤ 1

/-- R79: the list of the unknown words, family by family. -/
def Obligations.UnknownWordsAreTheListed : Prop :=
  ∀ (p : Params) (w : Word),
    (∃ why, decodeWord p w = .error why) ↔
      (opField w = 0x0 ∧ kkField w ≠ 0xE0 ∧ kkField w ≠ 0xEE) ∨
      ((opField w = 0x5 ∨ opField w = 0x9) ∧ nField w ≠ 0x0) ∨
      (opField w = 0x8 ∧ nField w ∈ ([0x8, 0x9, 0xA, 0xB, 0xC, 0xD, 0xF] : List Nibble)) ∨
      (opField w = 0x8 ∧ nField w = 0x0 ∧ p.has8xy0 = false) ∨
      (opField w = 0xE ∧ kkField w ≠ 0x9E ∧ kkField w ≠ 0xA1) ∨
      (opField w = 0xF ∧ kkField w ∉ ([0x07, 0x0A, 0x15, 0x18, 0x1E, 0x29, 0x33, 0x55, 0x65] : List Byte))

/-- Words written out from R78 decode to the instructions they stand for (spec/95_test_vectors.md gives them). -/
def Obligations.SampleWordsDecode : Prop :=
  decodeTableWord 16 0x00E0 = some .cls ∧ decodeTableWord 16 0x0AEE = some .ret ∧
  decodeTableWord 16 0x2300 = some (.call 0x300) ∧ decodeTableWord 16 0x3342 = some (.seVxKk 3 0x42) ∧
  decodeTableWord 16 0x8124 = some (.addVxVy 1 2) ∧ decodeTableWord 16 0x8F15 = some (.subVxVy 15 1) ∧
  decodeTableWord 16 0xA2F0 = some (.ldINnn 0x2F0) ∧ decodeTableWord 16 0xD012 = some (.drwVxVyN 0 1 2) ∧
  decodeTableWord 16 0xE5A1 = some (.sknpVx 5) ∧ decodeTableWord 16 0xF265 = some (.ldVxMem 2) ∧
  decodeTableWord 16 0x5121 = none ∧ decodeTableWord 16 0x800D = none ∧ decodeTableWord 16 0x0000 = none

/-- R52, R65 (decision D11): two bytes stored at pc are what the very next fetch reads, the lower-addressed one as the high
byte. -/
def Obligations.FetchSeesTheLatestStore : Prop :=
  ∀ (s t : State) (hi lo : Byte), s.storeBytes? s.pc.toNat [hi, lo] = some t →
    ∃ w, t.fetch16? = some w ∧ w.toNat = hi.toNat * 256 + lo.toNat ∧ bytesOfWord w = [hi, lo]

/-- An instruction's word placed at pc of a running session is what the next step runs, whichever instruction it is and
wherever pc stands below 4095. -/
def Obligations.PlacedWordRuns : Prop :=
  ∀ (s : State) (i : Instr), s.halted = none → s.mode = .running → s.pc.toNat ≤ 4094 → WellFormed s.params i = true →
    step (s.withFetchWord 16 (encode i).toNat) = exec i (s.withFetchWord 16 (encode i).toNat).advance

/-! ## Control flow (spec/40_control_flow.md) -/

/-- R101: JP nnn sets pc to nnn and changes nothing else; a target of 0xFFF makes the next step's fetch fatal (R71). That the
fatal step is a next state with halted set rests on decision D13 and on the model's reading of it (log entry 3). -/
def Obligations.JumpSetsPc : Prop :=
  Encodes 0xF000 0x1000 (fun w => .jp (nnnField w)) ∧
  ∀ (nnn : Addr) (s : State), ∃ t, exec (.jp nnn) s = .next t ∧ t.pc.toNat = nnn.toNat ∧ sameBut [.pc] s t ∧
    (nnn = 0xFFF → s.halted = none → s.mode = .running →
      ∃ u, step t = .next u ∧ u.halted = some .fetchOutOfBounds ∧ sameBut [.halted] t u)

/-- R107 (decision D21: the exact sum, not reduced to 12 bits): JP V0, nnn. -/
def Obligations.JumpWithOffsetAddsV0 : Prop :=
  Encodes 0xF000 0xB000 (fun w => .jpV0Nnn (nnnField w)) ∧
  ∀ (nnn : Addr) (s : State), ∃ t, exec (.jpV0Nnn nnn) s = .next t ∧
    t.pc.toNat = (s.reg 0).toNat + nnn.toNat ∧ sameBut [.pc] s t

/-- R102 with room on the stack: the advanced pc is pushed, pc is nnn, and nothing else changes. -/
def Obligations.CallPushesReturnAddress : Prop :=
  Encodes 0xF000 0x2000 (fun w => .call (nnnField w)) ∧
  ∀ (nnn : Addr) (s : State), s.sp.val < 16 → ∃ t, exec (.call nnn) s = .next t ∧
    t.pc.toNat = nnn.toNat ∧ t.sp.val = s.sp.val + 1 ∧ t.stack[s.sp.val]? = some s.pc ∧
    (∀ j, j ≠ s.sp.val → t.stack[j]? = s.stack[j]?) ∧ sameBut [.pc, .stack, .sp] s t

/-- R102 on a full stack (decision D36: nothing pushed, no jump): StackOverflow, and only halted changes (a next state with halted
set: D13, log entry 3). -/
def Obligations.CallOnFullStackIsFatal : Prop :=
  ∀ (nnn : Addr) (s : State), s.sp.val = 16 →
    ∃ t, exec (.call nnn) s = .next t ∧ t.halted = some .stackOverflow ∧ sameBut [.halted] s t

/-- R100: RET takes the top return address into pc; on an empty stack it is fatal and only halted changes. That the
fatal step is a next state with halted set rests on decision D13 and on the model's reading of it (log entry 3); that the popped
entry keeps its value is decision D12. -/
def Obligations.ReturnPopsReturnAddress : Prop :=
  Encodes 0xF0FF 0x00EE (fun _ => .ret) ∧
  ∀ s : State,
    (0 < s.sp.val → ∃ t, exec .ret s = .next t ∧ s.stack[s.sp.val - 1]? = some t.pc ∧
      t.sp.val + 1 = s.sp.val ∧ sameBut [.pc, .sp] s t) ∧
    (s.sp.val = 0 → ∃ t, exec .ret s = .next t ∧ t.halted = some .stackUnderflow ∧ sameBut [.halted] s t)

/-- R30: "push(a) then pop() returns a", across a subroutine that leaves the stack as the call made it. -/
def Obligations.ReturnUndoesCall : Prop :=
  ∀ (nnn : Addr) (s t t' : State), s.sp.val < 16 → exec (.call nnn) s = .next t → t'.stack = t.stack → t'.sp = t.sp →
    ∃ u, exec .ret t' = .next u ∧ u.pc = s.pc ∧ u.sp = s.sp ∧ sameBut [.pc, .sp] t' u

/-- R29: from an empty stack sixteen nested calls succeed and the seventeenth is fatal (a next state with halted set: D13, D36,
log entry 3). -/
def Obligations.CallsNestSixteenDeep : Prop :=
  ∀ (as : List Addr) (s : State), s.sp.val = 0 → as.length ≤ 16 →
    ∃ t, callChain as s = .next t ∧ t.sp.val = as.length ∧ t.halted = s.halted ∧
      (as.length = 16 → ∀ a, ∃ u, exec (.call a) t = .next u ∧ u.halted = some .stackOverflow ∧ sameBut [.halted] t u)

/-- R103, R104 (decision D22: no bound check at the skip): the skips on a register and an immediate. -/
def Obligations.ImmediateSkipsTestTheRegister : Prop :=
  Encodes 0xF000 0x3000 (fun w => .seVxKk (xField w) (kkField w)) ∧
  Encodes 0xF000 0x4000 (fun w => .sneVxKk (xField w) (kkField w)) ∧
  ∀ (x : Reg) (kk : Byte) (s : State),
    (∃ t, exec (.seVxKk x kk) s = .next t ∧ t.pc = (if s.reg x = kk then s.pc + 2 else s.pc) ∧ sameBut [.pc] s t) ∧
    (∃ t, exec (.sneVxKk x kk) s = .next t ∧ t.pc = (if s.reg x = kk then s.pc else s.pc + 2) ∧ sameBut [.pc] s t)

/-- R105, R106: the skips on two registers, and that a low nibble other than 0 is unknown. -/
def Obligations.RegisterSkipsCompareRegisters : Prop :=
  Encodes 0xF00F 0x5000 (fun w => .seVxVy (xField w) (yField w)) ∧
  Encodes 0xF00F 0x9000 (fun w => .sneVxVy (xField w) (yField w)) ∧
  (∀ (p : Params) (w : Word), opField w = 0x5 ∨ opField w = 0x9 → nField w ≠ 0 → ∀ i, decodeWord p w ≠ .ok i) ∧
  ∀ (x y : Reg) (s : State),
    (∃ t, exec (.seVxVy x y) s = .next t ∧ t.pc = (if s.reg x = s.reg y then s.pc + 2 else s.pc) ∧ sameBut [.pc] s t) ∧
    (∃ t, exec (.sneVxVy x y) s = .next t ∧ t.pc = (if s.reg x = s.reg y then s.pc else s.pc + 2) ∧ sameBut [.pc] s t)

/-! ## Registers and arithmetic (spec/41_alu.md) -/

/-- R120, R121: LD Vx, kk and ADD Vx, kk, which touches no flag. -/
def Obligations.ImmediateLoadAndAdd : Prop :=
  Encodes 0xF000 0x6000 (fun w => .ldVxKk (xField w) (kkField w)) ∧
  Encodes 0xF000 0x7000 (fun w => .addVxKk (xField w) (kkField w)) ∧
  ∀ (x : Reg) (kk : Byte) (s : State),
    (∃ t, exec (.ldVxKk x kk) s = .next t ∧ t.reg x = kk ∧ regsBut [x] s t ∧ sameBut [.v] s t) ∧
    (∃ t, exec (.addVxKk x kk) s = .next t ∧ (t.reg x).toNat = ((s.reg x).toNat + kk.toNat) % 256 ∧
      regsBut [x] s t ∧ sameBut [.v] s t)

/-- R124 (general knowledge G5, decision D5): the register copy, an instruction only when HAS_8XY0 is true. -/
def Obligations.CopyRegisterWhenAdmitted : Prop :=
  (∀ (p : Params) (w : Word), w &&& 0xF00F = 0x8000 →
    decodeWord p w = if p.has8xy0 then .ok (.ldVxVy (xField w) (yField w)) else .error .copyAbsent) ∧
  ∀ (x y : Reg) (s : State), ∃ t, exec (.ldVxVy x y) s = .next t ∧ t.reg x = s.reg y ∧ regsBut [x] s t ∧ sameBut [.v] s t

/-- R125 to R127 (decision D6: LOGIC_VF is a parameter): the three logic operations, bit by bit. With LOGIC_VF = zero VF ends
as 0, even as the destination. -/
def Obligations.LogicOperationsAndVf : Prop :=
  Encodes 0xF00F 0x8001 (fun w => .orVxVy (xField w) (yField w)) ∧
  Encodes 0xF00F 0x8002 (fun w => .andVxVy (xField w) (yField w)) ∧
  Encodes 0xF00F 0x8003 (fun w => .xorVxVy (xField w) (yField w)) ∧
  ∀ (x y : Reg) (s : State) (i : Instr) (f : Bool → Bool → Bool),
    (i = .orVxVy x y ∧ f = or) ∨ (i = .andVxVy x y ∧ f = and) ∨ (i = .xorVxVy x y ∧ f = xor) →
    ∃ t, exec i s = .next t ∧ sameBut [.v] s t ∧
      (s.params.logicVf = .unchanged →
        (∀ k, k < 8 → (t.reg x).getLsbD k = f ((s.reg x).getLsbD k) ((s.reg y).getLsbD k)) ∧ regsBut [x] s t) ∧
      (s.params.logicVf = .zero →
        (x ≠ vf → ∀ k, k < 8 → (t.reg x).getLsbD k = f ((s.reg x).getLsbD k) ((s.reg y).getLsbD k)) ∧
        t.reg vf = 0 ∧ regsBut [x, vf] s t)

/-- R128: the wrapped sum goes to V[x] and then the carry to VF, so that with x = 15 VF ends as the carry; both are computed
from the operands as they were. -/
def Obligations.AddSetsCarry : Prop :=
  Encodes 0xF00F 0x8004 (fun w => .addVxVy (xField w) (yField w)) ∧
  ∀ (x y : Reg) (s : State), ∃ t, exec (.addVxVy x y) s = .next t ∧
    (x ≠ vf → (t.reg x).toNat = ((s.reg x).toNat + (s.reg y).toNat) % 256) ∧
    t.reg vf = (if (s.reg x).toNat + (s.reg y).toNat > 255 then 1 else 0) ∧
    regsBut [x, vf] s t ∧ sameBut [.v] s t

/-- R129, R131: SUB is V[x] - V[y] and SUBN is V[y] - V[x], modulo 256; VF is 1 iff there is no borrow, and is written last. -/
def Obligations.SubtractSetsNoBorrow : Prop :=
  Encodes 0xF00F 0x8005 (fun w => .subVxVy (xField w) (yField w)) ∧
  Encodes 0xF00F 0x8007 (fun w => .subnVxVy (xField w) (yField w)) ∧
  ∀ (x y : Reg) (s : State),
    (∃ t, exec (.subVxVy x y) s = .next t ∧
      (x ≠ vf → (t.reg x).toNat = ((s.reg x).toNat + 256 - (s.reg y).toNat) % 256) ∧
      t.reg vf = (if (s.reg x).toNat ≥ (s.reg y).toNat then 1 else 0) ∧ regsBut [x, vf] s t ∧ sameBut [.v] s t) ∧
    (∃ t, exec (.subnVxVy x y) s = .next t ∧
      (x ≠ vf → (t.reg x).toNat = ((s.reg y).toNat + 256 - (s.reg x).toNat) % 256) ∧
      t.reg vf = (if (s.reg y).toNat ≥ (s.reg x).toNat then 1 else 0) ∧ regsBut [x, vf] s t ∧ sameBut [.v] s t)

/-- R130, R132: the shifts by one move the bit out into VF, last, and never read V[y]. -/
def Obligations.ShiftsMoveTheBitIntoVf : Prop :=
  Encodes 0xF00F 0x8006 (fun w => .shrVx (xField w) (yField w)) ∧
  Encodes 0xF00F 0x800E (fun w => .shlVx (xField w) (yField w)) ∧
  ∀ (x y : Reg) (s : State),
    (∃ t, exec (.shrVx x y) s = .next t ∧ (x ≠ vf → (t.reg x).toNat = (s.reg x).toNat / 2) ∧
      (t.reg vf).toNat = (s.reg x).toNat % 2 ∧ regsBut [x, vf] s t ∧ sameBut [.v] s t) ∧
    (∃ t, exec (.shlVx x y) s = .next t ∧ (x ≠ vf → (t.reg x).toNat = ((s.reg x).toNat * 2) % 256) ∧
      (t.reg vf).toNat = (s.reg x).toNat / 128 ∧ regsBut [x, vf] s t ∧ sameBut [.v] s t)

/-- R133, R13 (decision D23; the free value is log entry 2): RND masks a fresh draw, whatever byte it is, so only bits of kk
can be set. The count of draws is the model's own. -/
def Obligations.RandomIsMaskedFreshDraw : Prop :=
  Encodes 0xF000 0xC000 (fun w => .rndVxKk (xField w) (kkField w)) ∧
  ∀ (x : Reg) (kk : Byte) (s : State), ∃ t, exec (.rndVxKk x kk) s = .next t ∧
    t.reg x = Config.randByte s.draws &&& kk ∧ (∀ k, kk.getLsbD k = false → (t.reg x).getLsbD k = false) ∧
    t.draws = s.draws + 1 ∧ regsBut [x] s t ∧ sameBut [.v, .draws] s t

/-! ## Index and memory (spec/42_index_memory.md) -/

/-- R150, R151, R152: the three writes of I; ADD I wraps at 16 bits with no flag, LD F uses the low nibble only. -/
def Obligations.IndexRegisterWrites : Prop :=
  Encodes 0xF000 0xA000 (fun w => .ldINnn (nnnField w)) ∧
  Encodes 0xF0FF 0xF01E (fun w => .addIVx (xField w)) ∧
  Encodes 0xF0FF 0xF029 (fun w => .ldFVx (xField w)) ∧
  (∀ (nnn : Addr) (s : State), ∃ t, exec (.ldINnn nnn) s = .next t ∧ t.iReg.toNat = nnn.toNat ∧ sameBut [.iReg] s t) ∧
  ∀ (x : Reg) (s : State),
    (∃ t, exec (.addIVx x) s = .next t ∧ t.iReg.toNat = (s.iReg.toNat + (s.reg x).toNat) % 65536 ∧ sameBut [.iReg] s t) ∧
    (∃ t, exec (.ldFVx x) s = .next t ∧ t.iReg.toNat = 0x050 + 5 * ((s.reg x).toNat % 16) ∧ sameBut [.iReg] s t)

/-- R153: the three decimal digits go to I, I+1 and I+2 if all three lie in memory, by exact integers; otherwise one
BcdOutOfBounds record and nothing written. -/
def Obligations.BcdStoresThreeDigits : Prop :=
  Encodes 0xF0FF 0xF033 (fun w => .ldBVx (xField w)) ∧
  ∀ (x : Reg) (s : State),
    (s.iReg.toNat + 2 < 4096 → ∃ t, exec (.ldBVx x) s = .next t ∧
      (∃ h m l : Byte, t.memRead? s.iReg.toNat = some h ∧ t.memRead? (s.iReg.toNat + 1) = some m ∧
        t.memRead? (s.iReg.toNat + 2) = some l ∧ h.toNat < 10 ∧ m.toNat < 10 ∧ l.toNat < 10 ∧
        (s.reg x).toNat = 100 * h.toNat + 10 * m.toNat + l.toNat) ∧
      memBut s.iReg.toNat 3 s t ∧ sameBut [.mem] s t) ∧
    (4096 ≤ s.iReg.toNat + 2 → ∃ t, exec (.ldBVx x) s = .next t ∧
      t.diag = s.diag ++ [.bcdOutOfBounds (s.pc - 2) (encode (.ldBVx x)) s.iReg] ∧ sameBut [.diag] s t)

/-- R154 (decision D19: I is unchanged): V[0] to V[x] go to I and on if all of it lies in memory, by exact integers; otherwise
one StoreOutOfBounds record and nothing stored. -/
def Obligations.StoreRegistersAllOrNothing : Prop :=
  Encodes 0xF0FF 0xF055 (fun w => .ldMemVx (xField w)) ∧
  ∀ (x : Reg) (s : State),
    (s.iReg.toNat + x.toNat < 4096 → ∃ t, exec (.ldMemVx x) s = .next t ∧
      (∀ j : Reg, j.toNat ≤ x.toNat → t.memRead? (s.iReg.toNat + j.toNat) = some (s.reg j)) ∧
      memBut s.iReg.toNat (x.toNat + 1) s t ∧ sameBut [.mem] s t) ∧
    (4096 ≤ s.iReg.toNat + x.toNat → ∃ t, exec (.ldMemVx x) s = .next t ∧
      t.diag = s.diag ++ [.storeOutOfBounds (s.pc - 2) (encode (.ldMemVx x)) s.iReg (x.toNat + 1)] ∧ sameBut [.diag] s t)

/-- R155 (decision D19: I is unchanged): V[0] to V[x] are loaded from I and on if all of it lies in memory, by exact integers;
otherwise one LoadOutOfBounds record and no register changes. -/
def Obligations.LoadRegistersAllOrNothing : Prop :=
  Encodes 0xF0FF 0xF065 (fun w => .ldVxMem (xField w)) ∧
  ∀ (x : Reg) (s : State),
    (s.iReg.toNat + x.toNat < 4096 → ∃ t, exec (.ldVxMem x) s = .next t ∧
      (∀ j : Reg, j.toNat ≤ x.toNat → s.memRead? (s.iReg.toNat + j.toNat) = some (t.reg j)) ∧
      (∀ j : Reg, x.toNat < j.toNat → t.reg j = s.reg j) ∧ sameBut [.v] s t) ∧
    (4096 ≤ s.iReg.toNat + x.toNat → ∃ t, exec (.ldVxMem x) s = .next t ∧
      t.diag = s.diag ++ [.loadOutOfBounds (s.pc - 2) (encode (.ldVxMem x)) s.iReg (x.toNat + 1)] ∧ sameBut [.diag] s t)

/-- R154, R155: what a bulk store saved, a bulk load of as many registers at the same I restores, whatever happened to the
registers in between. -/
def Obligations.BulkLoadRestoresBulkStore : Prop :=
  ∀ (x : Reg) (s t u : State), s.iReg.toNat + x.toNat < 4096 → exec (.ldMemVx x) s = .next t →
    u.iReg = s.iReg → (∀ a, u.memRead? a = t.memRead? a) →
    ∃ w, exec (.ldVxMem x) u = .next w ∧ ∀ j : Reg, j.toNat ≤ x.toNat → w.reg j = s.reg j

/-! ## Display (spec/43_display.md) -/

/-- R170: CLS darkens every pixel, marks the framebuffer dirty, and touches nothing else. -/
def Obligations.ClearDarkensEveryPixel : Prop :=
  Encodes 0xF0FF 0x00E0 (fun _ => .cls) ∧
  ∀ s : State, ∃ t, exec .cls s = .next t ∧ (∀ px py, t.getPixel px py = false) ∧ t.dirty = true ∧
    sameBut [.fb, .dirty] s t

/-- R171, R236, R32 (decision D24: dirty is not set): setPixel flips the pixel its coordinates wrap to, returns what it was
and changes no other; getPixel wraps its coordinates the same way. A refused setPixel is R211 (log entry 3). -/
def Obligations.PixelPortsWrapAndFlip : Prop :=
  ∀ (x y : Nat) (s : State),
    s.getPixel x y = s.getPixel (x % 64) (y % 32) ∧
    (s.halted = none → ∃ t, setPixel x y s = .next (t, s.getPixel x y) ∧
      (∀ px py, px < 64 → py < 32 → t.getPixel px py =
        (if px = x % 64 ∧ py = y % 32 then !s.getPixel px py else s.getPixel px py)) ∧ sameBut [.fb] s t) ∧
    (∀ k, s.halted = some k → setPixel x y s = .fault (.sessionOver k))

/-- R172 (decisions D20, D35): DRW flips exactly the pixels that set sprite bits land on, each coordinate wrapped by itself,
rows past the end of memory left out; VF is 1 iff one of those pixels was lit, dirty is set, and nothing else changes. The
coordinates are V[x] and V[y] before VF is cleared. -/
def Obligations.DrawFlipsTheCoveredPixels : Prop :=
  Encodes 0xF000 0xD000 (fun w => .drwVxVyN (xField w) (yField w) (nField w)) ∧
  ∀ (x y : Reg) (n : Nibble) (s : State), ∃ t, exec (.drwVxVyN x y n) s = .next t ∧
    (∀ px py, px < 64 → py < 32 →
      (spriteCovers s (s.reg x).toNat (s.reg y).toNat n.toNat px py → t.getPixel px py = !s.getPixel px py) ∧
      (¬spriteCovers s (s.reg x).toNat (s.reg y).toNat n.toNat px py → t.getPixel px py = s.getPixel px py)) ∧
    ((∃ px py, spriteCovers s (s.reg x).toNat (s.reg y).toNat n.toNat px py ∧ s.getPixel px py = true) → t.reg vf = 1) ∧
    ((¬∃ px py, spriteCovers s (s.reg x).toNat (s.reg y).toNat n.toNat px py ∧ s.getPixel px py = true) → t.reg vf = 0) ∧
    t.dirty = true ∧ regsBut [vf] s t ∧ sameBut [.v, .fb, .dirty] s t

/-- R173 (which the spec derives from R171 and R172): drawing the same sprite twice at the same place, with the same bytes in
memory and no other framebuffer change between, restores every pixel, and the second draw reports a collision iff the first
turned some pixel on. -/
def Obligations.DrawingTwiceRestoresTheScreen : Prop :=
  ∀ (x y x' y' : Reg) (n : Nibble) (s t s' u : State),
    exec (.drwVxVyN x y n) s = .next t →
    s'.reg x' = s.reg x → s'.reg y' = s.reg y → s'.iReg = s.iReg → (∀ a, s'.memRead? a = s.memRead? a) → s'.fb = t.fb →
    exec (.drwVxVyN x' y' n) s' = .next u →
    (∀ px py, u.getPixel px py = s.getPixel px py) ∧
    ((∃ px py, s.getPixel px py = false ∧ t.getPixel px py = true) → u.reg vf = 1) ∧
    ((¬∃ px py, s.getPixel px py = false ∧ t.getPixel px py = true) → u.reg vf = 0)

/-! ## Keys and timers (spec/44_timers_input.md, spec/60_exceptions.md) -/

/-- R190, R191, R192: the key tests skip on the line that V[x] names; an index above 0xF skips neither way and is reported. -/
def Obligations.KeySkipsTestTheLine : Prop :=
  Encodes 0xF0FF 0xE09E (fun w => .skpVx (xField w)) ∧
  Encodes 0xF0FF 0xE0A1 (fun w => .sknpVx (xField w)) ∧
  ∀ (x : Reg) (s : State),
    (∀ k : Reg, (s.reg x).toNat = k.toNat →
      (∃ t, exec (.skpVx x) s = .next t ∧ t.pc = (if s.key k = true then s.pc + 2 else s.pc) ∧ sameBut [.pc] s t) ∧
      (∃ t, exec (.sknpVx x) s = .next t ∧ t.pc = (if s.key k = true then s.pc else s.pc + 2) ∧ sameBut [.pc] s t)) ∧
    (0xF < (s.reg x).toNat →
      (∃ t, exec (.skpVx x) s = .next t ∧
        t.diag = s.diag ++ [.invalidKeyIndex (s.pc - 2) (encode (.skpVx x)) (s.reg x)] ∧ sameBut [.diag] s t) ∧
      (∃ t, exec (.sknpVx x) s = .next t ∧
        t.diag = s.diag ++ [.invalidKeyIndex (s.pc - 2) (encode (.sknpVx x)) (s.reg x)] ∧ sameBut [.diag] s t))

/-- R194 (decision D38: a key already held does not end the wait): LD Vx, K records its target and starts the wait, writing
no register, whatever keys are down. -/
def Obligations.KeyWaitRecordsItsTarget : Prop :=
  Encodes 0xF0FF 0xF00A (fun w => .ldVxK (xField w)) ∧
  ∀ (x : Reg) (s : State), ∃ t, exec (.ldVxK x) s = .next t ∧ t.mode = .awaitingKey ∧ t.waitReg = x ∧
    sameBut [.mode, .waitReg] s t

/-- R193, R195, R196, with R231 for the sound output right after LD ST. -/
def Obligations.TimerTransfers : Prop :=
  Encodes 0xF0FF 0xF007 (fun w => .ldVxDT (xField w)) ∧
  Encodes 0xF0FF 0xF015 (fun w => .ldDTVx (xField w)) ∧
  Encodes 0xF0FF 0xF018 (fun w => .ldSTVx (xField w)) ∧
  ∀ (x : Reg) (s : State),
    (∃ t, exec (.ldVxDT x) s = .next t ∧ t.reg x = s.dt ∧ regsBut [x] s t ∧ sameBut [.v] s t) ∧
    (∃ t, exec (.ldDTVx x) s = .next t ∧ t.dt = s.reg x ∧ sameBut [.dt] s t) ∧
    (∃ t, exec (.ldSTVx x) s = .next t ∧ t.st = s.reg x ∧ (soundActive t = true ↔ 0 < (s.reg x).toNat) ∧
      sameBut [.st] s t)

/-- R230 (decision D25: in either mode): n ticks lower each timer by n, floored at 0, and change nothing else. -/
def Obligations.TicksCountDownToZero : Prop :=
  ∀ (n : Nat) (s : State), s.halted = none → ∃ t, runOps (List.replicate n .tick) s = .next t ∧
    t.dt.toNat = s.dt.toNat - n ∧ t.st.toNat = s.st.toNat - n ∧ sameBut [.dt, .st] s t

/-- R232 (decisions D16, D18, D38): a press of a valid key sets its line and ends a pending wait by writing the key's index
to the waiting register; an index above 0xF is reported and changes nothing else. -/
def Obligations.KeyPressSetsLineAndEndsWait : Prop :=
  ∀ s : State, s.halted = none →
    (∀ k : Reg, ∃ t, keyPress k.toNat s = .next t ∧ t.key k = true ∧ (∀ j, j ≠ k → t.key j = s.key j) ∧
      (s.mode = .running → sameBut [.keys] s t) ∧
      (s.mode = .awaitingKey → t.mode = .running ∧ (t.reg s.waitReg).toNat = k.toNat ∧ regsBut [s.waitReg] s t ∧
        sameBut [.keys, .v, .mode] s t)) ∧
    (∀ k : Nat, 0xF < k → ∃ t, keyPress k s = .next t ∧ t.diag = s.diag ++ [.invalidKeyEvent k] ∧ sameBut [.diag] s t)

/-- R233 (decision D16): a release clears its line and never ends a wait; an index above 0xF is reported and changes nothing
else. -/
def Obligations.KeyReleaseOnlyClearsLine : Prop :=
  ∀ s : State, s.halted = none →
    (∀ k : Reg, ∃ t, keyRelease k.toNat s = .next t ∧ t.key k = false ∧ (∀ j, j ≠ k → t.key j = s.key j) ∧
      sameBut [.keys] s t) ∧
    (∀ k : Nat, 0xF < k → ∃ t, keyRelease k s = .next t ∧ t.diag = s.diag ++ [.invalidKeyEvent k] ∧ sameBut [.diag] s t)

/-- R235 (decision D29: at any time): a load of at most 3584 bytes copies them to 0x200 and on; a larger one fails; neither
changes anything else. -/
def Obligations.LoadCopiesTheImageOrFails : Prop :=
  ∀ (b : List Byte) (s : State), s.halted = none →
    (b.length ≤ 3584 → ∃ t, load b s = .next (t, .loadOk) ∧
      (∀ (j : Nat) (c : Byte), b[j]? = some c → t.memRead? (0x200 + j) = some c) ∧
      memBut 0x200 b.length s t ∧ sameBut [.mem] s t) ∧
    (3584 < b.length → load b s = .next (s, .loadTooLarge)) ∧
    loadUnreadable s = .next (s, .loadUnreadable)

/-- R231, R234: the tone is due iff ST > 0; clearDirty clears that flag alone and is refused after a fatal error (the fault is
the model's form of a refusal, log entry 3). -/
def Obligations.SoundReadAndClearDirty : Prop :=
  ∀ s : State, (soundActive s = true ↔ 0 < s.st.toNat) ∧
    (s.halted = none → ∃ t, clearDirty s = .next t ∧ t.dirty = false ∧ sameBut [.dirty] s t) ∧
    (∀ k, s.halted = some k → clearDirty s = .fault (.sessionOver k))

/-! ## The whole machine -/

/-- R211, R36 (decision D13; log entry 3): once a fatal error has ended the session every state-changing operation is
refused. -/
def Obligations.EndedSessionRefusesEveryOperation : Prop :=
  ∀ (o : Op) (s : State) (k : FatalKind), s.halted = some k → applyOp o s = .fault (.sessionOver k)

/-- Until then no operation is refused: every one, and with it every instruction, gives a next state. That a step, CALL or RET which
raises a fatal error answers a next state with halted set is the model's choice (log entry 3, DEDUCED, on decision D13): the spec
says what state is left and not that the step succeeds. That execution goes on after a diagnostic is R214. -/
def Obligations.LiveSessionNeverStops : Prop :=
  (∀ (o : Op) (s : State), s.halted = none → ∃ t, applyOp o s = .next t) ∧
  ∀ (i : Instr) (s : State), ∃ t, exec i s = .next t

/-- R23, R41 and the instruction rules: every instruction, in every state, leaves alone each piece of the state that the table
`piecesWritten` does not give it; in particular none writes the key lines or the parameters. -/
def Obligations.InstructionsWriteOnlyTheirPieces : Prop :=
  ∀ (i : Instr) (s t : State), exec i s = .next t → sameBut (piecesWritten i) s t

/-- R22, R23: no instruction changes a register that its row of R23's table does not name; VF in particular is changed only by
the flag writers and by instructions whose destination it is. -/
def Obligations.InstructionsWriteOnlyTheirRegisters : Prop :=
  ∀ (i : Instr) (s t : State), exec i s = .next t → regsBut (regsWritten s.params i) s t

/-- R26, R255: the ways a step changes pc. The skips are named here without their conditions, which the statements about them
give. That pc is kept at a failing fetch is R71, with decision D13 and log entry 3. -/
def Obligations.PcChangesOnlyInTheListedWays : Prop :=
  ∀ s t : State, step s = .next t →
    (s.mode = .awaitingKey ∧ t.pc = s.pc) ∨
    (s.mode = .running ∧ 4094 < s.pc.toNat ∧ t.pc = s.pc) ∨
    (s.mode = .running ∧ s.pc.toNat ≤ 4094 ∧
      (t.pc = s.pc + 2 ∨
        ∃ i w, s.fetch16? = some w ∧ decodeWord s.params w = .ok i ∧
          ((isSkip i = true ∧ t.pc = s.pc + 2 + 2) ∨
            (∃ nnn : Addr, (i = .jp nnn ∨ i = .call nnn) ∧ t.pc.toNat = nnn.toNat) ∨
            (i = .ret ∧ 0 < s.sp.val ∧ s.stack[s.sp.val - 1]? = some t.pc) ∨
            (∃ nnn : Addr, i = .jpV0Nnn nnn ∧ t.pc.toNat = (s.reg 0).toNat + nnn.toNat))))

/-- R37, R213, R216: an operation appends at most one diagnostic record and removes none, and never raises both a record and a
fatal error (that a fatal step is a next state at all is the model's choice: log entry 3, on D13). -/
def Obligations.DiagnosticsAreAppendedOneAtATime : Prop :=
  ∀ (o : Op) (s t : State), applyOp o s = .next t →
    ∃ d : List Diag, t.diag = s.diag ++ d ∧ d.length ≤ 1 ∧ (d = [] ∨ t.halted = none)

/-- R210, R211 (decisions D13, D36; log entry 3): only step() raises a fatal error, only for the three conditions, and it leaves exactly
what the table of R210 says. -/
def Obligations.FatalErrorsArePrecise : Prop :=
  ∀ (o : Op) (s t : State) (k : FatalKind), applyOp o s = .next t → t.halted = some k →
    o = .step ∧ s.halted = none ∧ s.mode = .running ∧
    (match k with
      | .stackOverflow => s.sp.val = 16 ∧ (∃ nnn, s.fetched = .run (.call nnn)) ∧ t.pc = s.pc + 2 ∧ sameBut [.pc, .halted] s t
      | .stackUnderflow => s.sp.val = 0 ∧ s.fetched = .run .ret ∧ t.pc = s.pc + 2 ∧ sameBut [.pc, .halted] s t
      | .fetchOutOfBounds => 4094 < s.pc.toNat ∧ sameBut [.halted] s t)

/-- R194, R232, R233, R243: whatever the host does, the engine stays at its key wait, with pc and every register as they are,
until a press of a valid key. -/
def Obligations.KeyWaitLastsUntilAValidPress : Prop :=
  ∀ (ops : List Op) (s t : State), s.mode = .awaitingKey → (∀ k, Op.keyPress k ∈ ops → 0xF < k) →
    runOps ops s = .next t →
    t.mode = .awaitingKey ∧ t.waitReg = s.waitReg ∧ t.pc = s.pc ∧ (∀ x, t.reg x = s.reg x)

/-- R31, R33, R37, R41: step() reads neither ST, dirty, diag nor waitReg: whatever they hold, it ends the same way and every
other piece of the state comes out the same. -/
def Obligations.StepIgnoresHostOnlyState : Prop :=
  ∀ (s : State) (b : Byte) (d : Bool) (l : List Diag) (x : Reg),
    (∀ f, step s = .fault f → step { s with st := b, dirty := d, diag := l, waitReg := x } = .fault f) ∧
    (∀ t, step s = .next t → ∃ b' d' l' x',
      step { s with st := b, dirty := d, diag := l, waitReg := x } =
        .next { t with st := b', dirty := d', diag := l', waitReg := x' })

/-- R30 (decision D12): what a popped entry still holds cannot be observed: two states that differ only in stack entries at
and above sp step to states that differ only so. -/
def Obligations.StaleStackEntriesAreUnobservable : Prop :=
  ∀ (s : State) (a : Vector Word 16), (∀ j, j < s.sp.val → a[j]? = s.stack[j]?) →
    (∀ f, step s = .fault f → step { s with stack := a } = .fault f) ∧
    (∀ t, step s = .next t → ∃ b : Vector Word 16,
      step { s with stack := a } = .next { t with stack := b } ∧ ∀ j, j < t.sp.val → b[j]? = t.stack[j]?)

/-! ## The end of a run -/

/-- R244 (the definition of an end is the model's, log entry 11): every run ends, as far as it has been called, in one of three
ways: by a fatal error, which no further call undoes; waiting for a key; or with the host no longer calling a session that
could go on. -/
def Obligations.RunsEndByFatalErrorOrTheHost : Prop :=
  ∀ (ops : List Op) (s : State), ∃ e, endOfRun ops s = .next e ∧
    (∀ k, e = .fatal k ↔
      runOps ops s = .fault (.sessionOver k) ∨ ∃ t, runOps ops s = .next t ∧ t.halted = some k) ∧
    (∀ x, e = .waiting x ↔
      ∃ t, runOps ops s = .next t ∧ t.halted = none ∧ t.mode = .awaitingKey ∧ t.waitReg = x) ∧
    (e = .ceased ↔ ∃ t, runOps ops s = .next t ∧ t.halted = none ∧ t.mode = .running) ∧
    (∀ k, e = .fatal k → ∀ more : List Op, endOfRun (ops ++ more) s = .next (.fatal k))

/-- R244, R101, R70: neither a jump to its own address nor a key wait ends a session: any number of steps leaves the state as it
is, and the run has ended only because the host calls no more. -/
def Obligations.SelfJumpAndKeyWaitEndNothing : Prop :=
  ∀ (n : Nat) (s : State), s.halted = none →
    (∀ nnn : Addr, s.mode = .running → s.fetched = .run (.jp nnn) → s.pc.toNat = nnn.toNat →
      runOps (List.replicate n .step) s = .next s ∧ endOfRun (List.replicate n .step) s = .next .ceased) ∧
    (s.mode = .awaitingKey →
      runOps (List.replicate n .step) s = .next s ∧
        endOfRun (List.replicate n .step) s = .next (.waiting s.waitReg))
end

