-- ==== Sys2Proof/Laws/Decode.lean ====
section
/-! SUPPORT. The fields of packed words, the byte order, and what a mask says of the fields. -/

namespace Sys2Proof

variable (o x y n : Nibble) (kk hi lo : Byte) (nnn : Addr) (w : Word)

/-! Each field of each layout. -/

@[simp] theorem opField_packNnn : opField (packNnn o nnn) = o := by
  have := o.isLt; have := nnn.isLt
  apply BitVec.eq_of_toNat_eq
  simp [opField, packNnn]
  omega

@[simp] theorem nnnField_packNnn : nnnField (packNnn o nnn) = nnn := by
  have := o.isLt; have := nnn.isLt
  apply BitVec.eq_of_toNat_eq
  simp [nnnField, packNnn]
  omega

@[simp] theorem opField_packXkk : opField (packXkk o x kk) = o := by
  have := o.isLt; have := x.isLt; have := kk.isLt
  apply BitVec.eq_of_toNat_eq
  simp [opField, packXkk]
  omega

@[simp] theorem xField_packXkk : xField (packXkk o x kk) = x := by
  have := o.isLt; have := x.isLt; have := kk.isLt
  apply BitVec.eq_of_toNat_eq
  simp [xField, packXkk]
  omega

@[simp] theorem kkField_packXkk : kkField (packXkk o x kk) = kk := by
  have := o.isLt; have := x.isLt; have := kk.isLt
  apply BitVec.eq_of_toNat_eq
  simp [kkField, packXkk]
  omega

@[simp] theorem opField_packXyn : opField (packXyn o x y n) = o := by
  have := o.isLt; have := x.isLt; have := y.isLt; have := n.isLt
  apply BitVec.eq_of_toNat_eq
  simp [opField, packXyn]
  omega

@[simp] theorem xField_packXyn : xField (packXyn o x y n) = x := by
  have := o.isLt; have := x.isLt; have := y.isLt; have := n.isLt
  apply BitVec.eq_of_toNat_eq
  simp [xField, packXyn]
  omega

@[simp] theorem yField_packXyn : yField (packXyn o x y n) = y := by
  have := o.isLt; have := x.isLt; have := y.isLt; have := n.isLt
  apply BitVec.eq_of_toNat_eq
  simp [yField, packXyn]
  omega

@[simp] theorem nField_packXyn : nField (packXyn o x y n) = n := by
  have := o.isLt; have := x.isLt; have := y.isLt; have := n.isLt
  apply BitVec.eq_of_toNat_eq
  simp [nField, packXyn]
  omega

/-! A word is packed from its own fields. -/

theorem packNnn_fields : packNnn (opField w) (nnnField w) = w := by
  have := w.isLt
  apply BitVec.eq_of_toNat_eq
  simp [opField, nnnField, packNnn]
  omega

theorem packXkk_fields : packXkk (opField w) (xField w) (kkField w) = w := by
  have := w.isLt
  apply BitVec.eq_of_toNat_eq
  simp [opField, xField, kkField, packXkk]
  omega

theorem packXyn_fields : packXyn (opField w) (xField w) (yField w) (nField w) = w := by
  have := w.isLt
  apply BitVec.eq_of_toNat_eq
  simp [opField, xField, yField, nField, packXyn]
  omega

/-! What the three masks of R78 keep. -/

theorem and_mask_op : w &&& 0xF000#16 = packNnn (opField w) 0 := by
  apply BitVec.eq_of_getLsbD_eq
  intro i hi
  rw [← packNnn_fields (w &&& 0xF000#16)]
  congr 2
  · apply BitVec.eq_of_getLsbD_eq
    intro j hj
    have : j = 0 ∨ j = 1 ∨ j = 2 ∨ j = 3 := by omega
    rcases this with h | h | h | h <;> subst h <;> simp [opField]
  · apply BitVec.eq_of_getLsbD_eq
    intro j hj
    simp [nnnField]
    interval_cases j <;> simp

theorem and_mask_op_n : w &&& 0xF00F#16 = packXyn (opField w) 0 0 (nField w) := by
  apply BitVec.eq_of_getLsbD_eq
  intro i hi
  rw [← packXyn_fields (w &&& 0xF00F#16)]
  congr 2 <;>
  · apply BitVec.eq_of_getLsbD_eq
    intro j hj
    have : j = 0 ∨ j = 1 ∨ j = 2 ∨ j = 3 := by omega
    rcases this with h | h | h | h <;> subst h <;> simp [opField, xField, yField, nField]

theorem and_mask_op_kk : w &&& 0xF0FF#16 = packXkk (opField w) 0 (kkField w) := by
  apply BitVec.eq_of_getLsbD_eq
  intro i hi
  rw [← packXkk_fields (w &&& 0xF0FF#16)]
  congr 2
  · apply BitVec.eq_of_getLsbD_eq
    intro j hj
    have : j = 0 ∨ j = 1 ∨ j = 2 ∨ j = 3 := by omega
    rcases this with h | h | h | h <;> subst h <;> simp [opField]
  · apply BitVec.eq_of_getLsbD_eq
    intro j hj
    have : j = 0 ∨ j = 1 ∨ j = 2 ∨ j = 3 := by omega
    rcases this with h | h | h | h <;> subst h <;> simp [xField]
  · apply BitVec.eq_of_getLsbD_eq
    intro j hj
    simp [kkField]
    interval_cases j <;> simp

variable {w} {c : Word}

theorem opField_of_mask (h : w &&& 0xF000 = c) : opField w = opField c := by
  rw [← h]
  exact (congrArg opField (and_mask_op w)).symm ▸ by simp

theorem fields_of_mask_n (h : w &&& 0xF00F = c) : opField w = opField c ∧ nField w = nField c := by
  have e := and_mask_op_n w
  rw [← h]
  exact ⟨(congrArg opField e).symm ▸ by simp, (congrArg nField e).symm ▸ by simp⟩

theorem fields_of_mask_kk (h : w &&& 0xF0FF = c) : opField w = opField c ∧ kkField w = kkField c := by
  have e := and_mask_op_kk w
  rw [← h]
  exact ⟨(congrArg opField e).symm ▸ by simp, (congrArg kkField e).symm ▸ by simp⟩

variable (w)

/-! Byte order (R52). -/

theorem wordOfBytes_toNat : (wordOfBytes hi lo).toNat = hi.toNat * 256 + lo.toNat := by
  have := hi.isLt; have := lo.isLt
  simp [wordOfBytes]
  omega

theorem bytesOfWord_wordOfBytes : bytesOfWord (wordOfBytes hi lo) = [hi, lo] := by
  have := hi.isLt; have := lo.isLt
  have h1 : (wordOfBytes hi lo).extractLsb' 8 8 = hi := by
    apply BitVec.eq_of_toNat_eq
    simp [wordOfBytes_toNat]
    omega
  have h2 : (wordOfBytes hi lo).extractLsb' 0 8 = lo := by
    apply BitVec.eq_of_toNat_eq
    simp [wordOfBytes_toNat]
    omega
  rw [bytesOfWord, h1, h2]

theorem wordOfBytes_bytesOfWord : ∃ a b, bytesOfWord w = [a, b] ∧ wordOfBytes a b = w := by
  have := w.isLt
  refine ⟨_, _, rfl, ?_⟩
  apply BitVec.eq_of_toNat_eq
  rw [wordOfBytes_toNat]
  simp
  omega

/-- The decoder of bytes on two bytes is the decoder of their word. -/
theorem decode_two_ok {p : Params} {i : Instr} : decode p [hi, lo] = .ok (i, []) ↔ decodeWord p (wordOfBytes hi lo) = .ok i := by
  cases h : decodeWord p (wordOfBytes hi lo) <;> simp [decode, h]

end Sys2Proof
end

