-- ==== Sys2Proof/Laws/State.lean ====
section
/-! SUPPORT. What each setter of the state does to each field: one lemma per field per update, true by rfl. -/

namespace Sys2Proof.Machine

variable (s : State)

@[simp] theorem State.setMem_mem (m : Memory) : (s.setMem m).mem = m := rfl
@[simp] theorem State.setMem_v (m : Memory) : (s.setMem m).v = s.v := rfl
@[simp] theorem State.setMem_iReg (m : Memory) : (s.setMem m).iReg = s.iReg := rfl
@[simp] theorem State.setMem_pc (m : Memory) : (s.setMem m).pc = s.pc := rfl
@[simp] theorem State.setMem_stack (m : Memory) : (s.setMem m).stack = s.stack := rfl
@[simp] theorem State.setMem_sp (m : Memory) : (s.setMem m).sp = s.sp := rfl
@[simp] theorem State.setMem_dt (m : Memory) : (s.setMem m).dt = s.dt := rfl
@[simp] theorem State.setMem_st (m : Memory) : (s.setMem m).st = s.st := rfl
@[simp] theorem State.setMem_fb (m : Memory) : (s.setMem m).fb = s.fb := rfl
@[simp] theorem State.setMem_dirty (m : Memory) : (s.setMem m).dirty = s.dirty := rfl
@[simp] theorem State.setMem_keys (m : Memory) : (s.setMem m).keys = s.keys := rfl
@[simp] theorem State.setMem_mode (m : Memory) : (s.setMem m).mode = s.mode := rfl
@[simp] theorem State.setMem_waitReg (m : Memory) : (s.setMem m).waitReg = s.waitReg := rfl
@[simp] theorem State.setMem_halted (m : Memory) : (s.setMem m).halted = s.halted := rfl
@[simp] theorem State.setMem_diag (m : Memory) : (s.setMem m).diag = s.diag := rfl
@[simp] theorem State.setMem_params (m : Memory) : (s.setMem m).params = s.params := rfl
@[simp] theorem State.setMem_draws (m : Memory) : (s.setMem m).draws = s.draws := rfl

@[simp] theorem State.setV_mem (r : Vector Byte 16) : (s.setV r).mem = s.mem := rfl
@[simp] theorem State.setV_v (r : Vector Byte 16) : (s.setV r).v = r := rfl
@[simp] theorem State.setV_iReg (r : Vector Byte 16) : (s.setV r).iReg = s.iReg := rfl
@[simp] theorem State.setV_pc (r : Vector Byte 16) : (s.setV r).pc = s.pc := rfl
@[simp] theorem State.setV_stack (r : Vector Byte 16) : (s.setV r).stack = s.stack := rfl
@[simp] theorem State.setV_sp (r : Vector Byte 16) : (s.setV r).sp = s.sp := rfl
@[simp] theorem State.setV_dt (r : Vector Byte 16) : (s.setV r).dt = s.dt := rfl
@[simp] theorem State.setV_st (r : Vector Byte 16) : (s.setV r).st = s.st := rfl
@[simp] theorem State.setV_fb (r : Vector Byte 16) : (s.setV r).fb = s.fb := rfl
@[simp] theorem State.setV_dirty (r : Vector Byte 16) : (s.setV r).dirty = s.dirty := rfl
@[simp] theorem State.setV_keys (r : Vector Byte 16) : (s.setV r).keys = s.keys := rfl
@[simp] theorem State.setV_mode (r : Vector Byte 16) : (s.setV r).mode = s.mode := rfl
@[simp] theorem State.setV_waitReg (r : Vector Byte 16) : (s.setV r).waitReg = s.waitReg := rfl
@[simp] theorem State.setV_halted (r : Vector Byte 16) : (s.setV r).halted = s.halted := rfl
@[simp] theorem State.setV_diag (r : Vector Byte 16) : (s.setV r).diag = s.diag := rfl
@[simp] theorem State.setV_params (r : Vector Byte 16) : (s.setV r).params = s.params := rfl
@[simp] theorem State.setV_draws (r : Vector Byte 16) : (s.setV r).draws = s.draws := rfl

@[simp] theorem State.setI_mem (a : Word) : (s.setI a).mem = s.mem := rfl
@[simp] theorem State.setI_v (a : Word) : (s.setI a).v = s.v := rfl
@[simp] theorem State.setI_iReg (a : Word) : (s.setI a).iReg = a := rfl
@[simp] theorem State.setI_pc (a : Word) : (s.setI a).pc = s.pc := rfl
@[simp] theorem State.setI_stack (a : Word) : (s.setI a).stack = s.stack := rfl
@[simp] theorem State.setI_sp (a : Word) : (s.setI a).sp = s.sp := rfl
@[simp] theorem State.setI_dt (a : Word) : (s.setI a).dt = s.dt := rfl
@[simp] theorem State.setI_st (a : Word) : (s.setI a).st = s.st := rfl
@[simp] theorem State.setI_fb (a : Word) : (s.setI a).fb = s.fb := rfl
@[simp] theorem State.setI_dirty (a : Word) : (s.setI a).dirty = s.dirty := rfl
@[simp] theorem State.setI_keys (a : Word) : (s.setI a).keys = s.keys := rfl
@[simp] theorem State.setI_mode (a : Word) : (s.setI a).mode = s.mode := rfl
@[simp] theorem State.setI_waitReg (a : Word) : (s.setI a).waitReg = s.waitReg := rfl
@[simp] theorem State.setI_halted (a : Word) : (s.setI a).halted = s.halted := rfl
@[simp] theorem State.setI_diag (a : Word) : (s.setI a).diag = s.diag := rfl
@[simp] theorem State.setI_params (a : Word) : (s.setI a).params = s.params := rfl
@[simp] theorem State.setI_draws (a : Word) : (s.setI a).draws = s.draws := rfl

@[simp] theorem State.setPc_mem (a : Word) : (s.setPc a).mem = s.mem := rfl
@[simp] theorem State.setPc_v (a : Word) : (s.setPc a).v = s.v := rfl
@[simp] theorem State.setPc_iReg (a : Word) : (s.setPc a).iReg = s.iReg := rfl
@[simp] theorem State.setPc_pc (a : Word) : (s.setPc a).pc = a := rfl
@[simp] theorem State.setPc_stack (a : Word) : (s.setPc a).stack = s.stack := rfl
@[simp] theorem State.setPc_sp (a : Word) : (s.setPc a).sp = s.sp := rfl
@[simp] theorem State.setPc_dt (a : Word) : (s.setPc a).dt = s.dt := rfl
@[simp] theorem State.setPc_st (a : Word) : (s.setPc a).st = s.st := rfl
@[simp] theorem State.setPc_fb (a : Word) : (s.setPc a).fb = s.fb := rfl
@[simp] theorem State.setPc_dirty (a : Word) : (s.setPc a).dirty = s.dirty := rfl
@[simp] theorem State.setPc_keys (a : Word) : (s.setPc a).keys = s.keys := rfl
@[simp] theorem State.setPc_mode (a : Word) : (s.setPc a).mode = s.mode := rfl
@[simp] theorem State.setPc_waitReg (a : Word) : (s.setPc a).waitReg = s.waitReg := rfl
@[simp] theorem State.setPc_halted (a : Word) : (s.setPc a).halted = s.halted := rfl
@[simp] theorem State.setPc_diag (a : Word) : (s.setPc a).diag = s.diag := rfl
@[simp] theorem State.setPc_params (a : Word) : (s.setPc a).params = s.params := rfl
@[simp] theorem State.setPc_draws (a : Word) : (s.setPc a).draws = s.draws := rfl

@[simp] theorem State.setStack_mem (k : Vector Word 16) (n : Fin 17) : (s.setStack k n).mem = s.mem := rfl
@[simp] theorem State.setStack_v (k : Vector Word 16) (n : Fin 17) : (s.setStack k n).v = s.v := rfl
@[simp] theorem State.setStack_iReg (k : Vector Word 16) (n : Fin 17) : (s.setStack k n).iReg = s.iReg := rfl
@[simp] theorem State.setStack_pc (k : Vector Word 16) (n : Fin 17) : (s.setStack k n).pc = s.pc := rfl
@[simp] theorem State.setStack_stack (k : Vector Word 16) (n : Fin 17) : (s.setStack k n).stack = k := rfl
@[simp] theorem State.setStack_sp (k : Vector Word 16) (n : Fin 17) : (s.setStack k n).sp = n := rfl
@[simp] theorem State.setStack_dt (k : Vector Word 16) (n : Fin 17) : (s.setStack k n).dt = s.dt := rfl
@[simp] theorem State.setStack_st (k : Vector Word 16) (n : Fin 17) : (s.setStack k n).st = s.st := rfl
@[simp] theorem State.setStack_fb (k : Vector Word 16) (n : Fin 17) : (s.setStack k n).fb = s.fb := rfl
@[simp] theorem State.setStack_dirty (k : Vector Word 16) (n : Fin 17) : (s.setStack k n).dirty = s.dirty := rfl
@[simp] theorem State.setStack_keys (k : Vector Word 16) (n : Fin 17) : (s.setStack k n).keys = s.keys := rfl
@[simp] theorem State.setStack_mode (k : Vector Word 16) (n : Fin 17) : (s.setStack k n).mode = s.mode := rfl
@[simp] theorem State.setStack_waitReg (k : Vector Word 16) (n : Fin 17) : (s.setStack k n).waitReg = s.waitReg := rfl
@[simp] theorem State.setStack_halted (k : Vector Word 16) (n : Fin 17) : (s.setStack k n).halted = s.halted := rfl
@[simp] theorem State.setStack_diag (k : Vector Word 16) (n : Fin 17) : (s.setStack k n).diag = s.diag := rfl
@[simp] theorem State.setStack_params (k : Vector Word 16) (n : Fin 17) : (s.setStack k n).params = s.params := rfl
@[simp] theorem State.setStack_draws (k : Vector Word 16) (n : Fin 17) : (s.setStack k n).draws = s.draws := rfl

@[simp] theorem State.setDT_mem (b : Byte) : (s.setDT b).mem = s.mem := rfl
@[simp] theorem State.setDT_v (b : Byte) : (s.setDT b).v = s.v := rfl
@[simp] theorem State.setDT_iReg (b : Byte) : (s.setDT b).iReg = s.iReg := rfl
@[simp] theorem State.setDT_pc (b : Byte) : (s.setDT b).pc = s.pc := rfl
@[simp] theorem State.setDT_stack (b : Byte) : (s.setDT b).stack = s.stack := rfl
@[simp] theorem State.setDT_sp (b : Byte) : (s.setDT b).sp = s.sp := rfl
@[simp] theorem State.setDT_dt (b : Byte) : (s.setDT b).dt = b := rfl
@[simp] theorem State.setDT_st (b : Byte) : (s.setDT b).st = s.st := rfl
@[simp] theorem State.setDT_fb (b : Byte) : (s.setDT b).fb = s.fb := rfl
@[simp] theorem State.setDT_dirty (b : Byte) : (s.setDT b).dirty = s.dirty := rfl
@[simp] theorem State.setDT_keys (b : Byte) : (s.setDT b).keys = s.keys := rfl
@[simp] theorem State.setDT_mode (b : Byte) : (s.setDT b).mode = s.mode := rfl
@[simp] theorem State.setDT_waitReg (b : Byte) : (s.setDT b).waitReg = s.waitReg := rfl
@[simp] theorem State.setDT_halted (b : Byte) : (s.setDT b).halted = s.halted := rfl
@[simp] theorem State.setDT_diag (b : Byte) : (s.setDT b).diag = s.diag := rfl
@[simp] theorem State.setDT_params (b : Byte) : (s.setDT b).params = s.params := rfl
@[simp] theorem State.setDT_draws (b : Byte) : (s.setDT b).draws = s.draws := rfl

@[simp] theorem State.setST_mem (b : Byte) : (s.setST b).mem = s.mem := rfl
@[simp] theorem State.setST_v (b : Byte) : (s.setST b).v = s.v := rfl
@[simp] theorem State.setST_iReg (b : Byte) : (s.setST b).iReg = s.iReg := rfl
@[simp] theorem State.setST_pc (b : Byte) : (s.setST b).pc = s.pc := rfl
@[simp] theorem State.setST_stack (b : Byte) : (s.setST b).stack = s.stack := rfl
@[simp] theorem State.setST_sp (b : Byte) : (s.setST b).sp = s.sp := rfl
@[simp] theorem State.setST_dt (b : Byte) : (s.setST b).dt = s.dt := rfl
@[simp] theorem State.setST_st (b : Byte) : (s.setST b).st = b := rfl
@[simp] theorem State.setST_fb (b : Byte) : (s.setST b).fb = s.fb := rfl
@[simp] theorem State.setST_dirty (b : Byte) : (s.setST b).dirty = s.dirty := rfl
@[simp] theorem State.setST_keys (b : Byte) : (s.setST b).keys = s.keys := rfl
@[simp] theorem State.setST_mode (b : Byte) : (s.setST b).mode = s.mode := rfl
@[simp] theorem State.setST_waitReg (b : Byte) : (s.setST b).waitReg = s.waitReg := rfl
@[simp] theorem State.setST_halted (b : Byte) : (s.setST b).halted = s.halted := rfl
@[simp] theorem State.setST_diag (b : Byte) : (s.setST b).diag = s.diag := rfl
@[simp] theorem State.setST_params (b : Byte) : (s.setST b).params = s.params := rfl
@[simp] theorem State.setST_draws (b : Byte) : (s.setST b).draws = s.draws := rfl

@[simp] theorem State.setFb_mem (f : Framebuffer) : (s.setFb f).mem = s.mem := rfl
@[simp] theorem State.setFb_v (f : Framebuffer) : (s.setFb f).v = s.v := rfl
@[simp] theorem State.setFb_iReg (f : Framebuffer) : (s.setFb f).iReg = s.iReg := rfl
@[simp] theorem State.setFb_pc (f : Framebuffer) : (s.setFb f).pc = s.pc := rfl
@[simp] theorem State.setFb_stack (f : Framebuffer) : (s.setFb f).stack = s.stack := rfl
@[simp] theorem State.setFb_sp (f : Framebuffer) : (s.setFb f).sp = s.sp := rfl
@[simp] theorem State.setFb_dt (f : Framebuffer) : (s.setFb f).dt = s.dt := rfl
@[simp] theorem State.setFb_st (f : Framebuffer) : (s.setFb f).st = s.st := rfl
@[simp] theorem State.setFb_fb (f : Framebuffer) : (s.setFb f).fb = f := rfl
@[simp] theorem State.setFb_dirty (f : Framebuffer) : (s.setFb f).dirty = s.dirty := rfl
@[simp] theorem State.setFb_keys (f : Framebuffer) : (s.setFb f).keys = s.keys := rfl
@[simp] theorem State.setFb_mode (f : Framebuffer) : (s.setFb f).mode = s.mode := rfl
@[simp] theorem State.setFb_waitReg (f : Framebuffer) : (s.setFb f).waitReg = s.waitReg := rfl
@[simp] theorem State.setFb_halted (f : Framebuffer) : (s.setFb f).halted = s.halted := rfl
@[simp] theorem State.setFb_diag (f : Framebuffer) : (s.setFb f).diag = s.diag := rfl
@[simp] theorem State.setFb_params (f : Framebuffer) : (s.setFb f).params = s.params := rfl
@[simp] theorem State.setFb_draws (f : Framebuffer) : (s.setFb f).draws = s.draws := rfl

@[simp] theorem State.setDirty_mem (d : Bool) : (s.setDirty d).mem = s.mem := rfl
@[simp] theorem State.setDirty_v (d : Bool) : (s.setDirty d).v = s.v := rfl
@[simp] theorem State.setDirty_iReg (d : Bool) : (s.setDirty d).iReg = s.iReg := rfl
@[simp] theorem State.setDirty_pc (d : Bool) : (s.setDirty d).pc = s.pc := rfl
@[simp] theorem State.setDirty_stack (d : Bool) : (s.setDirty d).stack = s.stack := rfl
@[simp] theorem State.setDirty_sp (d : Bool) : (s.setDirty d).sp = s.sp := rfl
@[simp] theorem State.setDirty_dt (d : Bool) : (s.setDirty d).dt = s.dt := rfl
@[simp] theorem State.setDirty_st (d : Bool) : (s.setDirty d).st = s.st := rfl
@[simp] theorem State.setDirty_fb (d : Bool) : (s.setDirty d).fb = s.fb := rfl
@[simp] theorem State.setDirty_dirty (d : Bool) : (s.setDirty d).dirty = d := rfl
@[simp] theorem State.setDirty_keys (d : Bool) : (s.setDirty d).keys = s.keys := rfl
@[simp] theorem State.setDirty_mode (d : Bool) : (s.setDirty d).mode = s.mode := rfl
@[simp] theorem State.setDirty_waitReg (d : Bool) : (s.setDirty d).waitReg = s.waitReg := rfl
@[simp] theorem State.setDirty_halted (d : Bool) : (s.setDirty d).halted = s.halted := rfl
@[simp] theorem State.setDirty_diag (d : Bool) : (s.setDirty d).diag = s.diag := rfl
@[simp] theorem State.setDirty_params (d : Bool) : (s.setDirty d).params = s.params := rfl
@[simp] theorem State.setDirty_draws (d : Bool) : (s.setDirty d).draws = s.draws := rfl

@[simp] theorem State.setKeys_mem (k : Vector Bool 16) : (s.setKeys k).mem = s.mem := rfl
@[simp] theorem State.setKeys_v (k : Vector Bool 16) : (s.setKeys k).v = s.v := rfl
@[simp] theorem State.setKeys_iReg (k : Vector Bool 16) : (s.setKeys k).iReg = s.iReg := rfl
@[simp] theorem State.setKeys_pc (k : Vector Bool 16) : (s.setKeys k).pc = s.pc := rfl
@[simp] theorem State.setKeys_stack (k : Vector Bool 16) : (s.setKeys k).stack = s.stack := rfl
@[simp] theorem State.setKeys_sp (k : Vector Bool 16) : (s.setKeys k).sp = s.sp := rfl
@[simp] theorem State.setKeys_dt (k : Vector Bool 16) : (s.setKeys k).dt = s.dt := rfl
@[simp] theorem State.setKeys_st (k : Vector Bool 16) : (s.setKeys k).st = s.st := rfl
@[simp] theorem State.setKeys_fb (k : Vector Bool 16) : (s.setKeys k).fb = s.fb := rfl
@[simp] theorem State.setKeys_dirty (k : Vector Bool 16) : (s.setKeys k).dirty = s.dirty := rfl
@[simp] theorem State.setKeys_keys (k : Vector Bool 16) : (s.setKeys k).keys = k := rfl
@[simp] theorem State.setKeys_mode (k : Vector Bool 16) : (s.setKeys k).mode = s.mode := rfl
@[simp] theorem State.setKeys_waitReg (k : Vector Bool 16) : (s.setKeys k).waitReg = s.waitReg := rfl
@[simp] theorem State.setKeys_halted (k : Vector Bool 16) : (s.setKeys k).halted = s.halted := rfl
@[simp] theorem State.setKeys_diag (k : Vector Bool 16) : (s.setKeys k).diag = s.diag := rfl
@[simp] theorem State.setKeys_params (k : Vector Bool 16) : (s.setKeys k).params = s.params := rfl
@[simp] theorem State.setKeys_draws (k : Vector Bool 16) : (s.setKeys k).draws = s.draws := rfl

@[simp] theorem State.setMode_mem (m : Mode) : (s.setMode m).mem = s.mem := rfl
@[simp] theorem State.setMode_v (m : Mode) : (s.setMode m).v = s.v := rfl
@[simp] theorem State.setMode_iReg (m : Mode) : (s.setMode m).iReg = s.iReg := rfl
@[simp] theorem State.setMode_pc (m : Mode) : (s.setMode m).pc = s.pc := rfl
@[simp] theorem State.setMode_stack (m : Mode) : (s.setMode m).stack = s.stack := rfl
@[simp] theorem State.setMode_sp (m : Mode) : (s.setMode m).sp = s.sp := rfl
@[simp] theorem State.setMode_dt (m : Mode) : (s.setMode m).dt = s.dt := rfl
@[simp] theorem State.setMode_st (m : Mode) : (s.setMode m).st = s.st := rfl
@[simp] theorem State.setMode_fb (m : Mode) : (s.setMode m).fb = s.fb := rfl
@[simp] theorem State.setMode_dirty (m : Mode) : (s.setMode m).dirty = s.dirty := rfl
@[simp] theorem State.setMode_keys (m : Mode) : (s.setMode m).keys = s.keys := rfl
@[simp] theorem State.setMode_mode (m : Mode) : (s.setMode m).mode = m := rfl
@[simp] theorem State.setMode_waitReg (m : Mode) : (s.setMode m).waitReg = s.waitReg := rfl
@[simp] theorem State.setMode_halted (m : Mode) : (s.setMode m).halted = s.halted := rfl
@[simp] theorem State.setMode_diag (m : Mode) : (s.setMode m).diag = s.diag := rfl
@[simp] theorem State.setMode_params (m : Mode) : (s.setMode m).params = s.params := rfl
@[simp] theorem State.setMode_draws (m : Mode) : (s.setMode m).draws = s.draws := rfl

@[simp] theorem State.setWaitReg_mem (x : Reg) : (s.setWaitReg x).mem = s.mem := rfl
@[simp] theorem State.setWaitReg_v (x : Reg) : (s.setWaitReg x).v = s.v := rfl
@[simp] theorem State.setWaitReg_iReg (x : Reg) : (s.setWaitReg x).iReg = s.iReg := rfl
@[simp] theorem State.setWaitReg_pc (x : Reg) : (s.setWaitReg x).pc = s.pc := rfl
@[simp] theorem State.setWaitReg_stack (x : Reg) : (s.setWaitReg x).stack = s.stack := rfl
@[simp] theorem State.setWaitReg_sp (x : Reg) : (s.setWaitReg x).sp = s.sp := rfl
@[simp] theorem State.setWaitReg_dt (x : Reg) : (s.setWaitReg x).dt = s.dt := rfl
@[simp] theorem State.setWaitReg_st (x : Reg) : (s.setWaitReg x).st = s.st := rfl
@[simp] theorem State.setWaitReg_fb (x : Reg) : (s.setWaitReg x).fb = s.fb := rfl
@[simp] theorem State.setWaitReg_dirty (x : Reg) : (s.setWaitReg x).dirty = s.dirty := rfl
@[simp] theorem State.setWaitReg_keys (x : Reg) : (s.setWaitReg x).keys = s.keys := rfl
@[simp] theorem State.setWaitReg_mode (x : Reg) : (s.setWaitReg x).mode = s.mode := rfl
@[simp] theorem State.setWaitReg_waitReg (x : Reg) : (s.setWaitReg x).waitReg = x := rfl
@[simp] theorem State.setWaitReg_halted (x : Reg) : (s.setWaitReg x).halted = s.halted := rfl
@[simp] theorem State.setWaitReg_diag (x : Reg) : (s.setWaitReg x).diag = s.diag := rfl
@[simp] theorem State.setWaitReg_params (x : Reg) : (s.setWaitReg x).params = s.params := rfl
@[simp] theorem State.setWaitReg_draws (x : Reg) : (s.setWaitReg x).draws = s.draws := rfl

@[simp] theorem State.bumpDraws_mem : (s.bumpDraws).mem = s.mem := rfl
@[simp] theorem State.bumpDraws_v : (s.bumpDraws).v = s.v := rfl
@[simp] theorem State.bumpDraws_iReg : (s.bumpDraws).iReg = s.iReg := rfl
@[simp] theorem State.bumpDraws_pc : (s.bumpDraws).pc = s.pc := rfl
@[simp] theorem State.bumpDraws_stack : (s.bumpDraws).stack = s.stack := rfl
@[simp] theorem State.bumpDraws_sp : (s.bumpDraws).sp = s.sp := rfl
@[simp] theorem State.bumpDraws_dt : (s.bumpDraws).dt = s.dt := rfl
@[simp] theorem State.bumpDraws_st : (s.bumpDraws).st = s.st := rfl
@[simp] theorem State.bumpDraws_fb : (s.bumpDraws).fb = s.fb := rfl
@[simp] theorem State.bumpDraws_dirty : (s.bumpDraws).dirty = s.dirty := rfl
@[simp] theorem State.bumpDraws_keys : (s.bumpDraws).keys = s.keys := rfl
@[simp] theorem State.bumpDraws_mode : (s.bumpDraws).mode = s.mode := rfl
@[simp] theorem State.bumpDraws_waitReg : (s.bumpDraws).waitReg = s.waitReg := rfl
@[simp] theorem State.bumpDraws_halted : (s.bumpDraws).halted = s.halted := rfl
@[simp] theorem State.bumpDraws_diag : (s.bumpDraws).diag = s.diag := rfl
@[simp] theorem State.bumpDraws_params : (s.bumpDraws).params = s.params := rfl
@[simp] theorem State.bumpDraws_draws : (s.bumpDraws).draws = s.draws + 1 := rfl

@[simp] theorem State.raiseFatal_mem (k : FatalKind) : (s.raiseFatal k).mem = s.mem := rfl
@[simp] theorem State.raiseFatal_v (k : FatalKind) : (s.raiseFatal k).v = s.v := rfl
@[simp] theorem State.raiseFatal_iReg (k : FatalKind) : (s.raiseFatal k).iReg = s.iReg := rfl
@[simp] theorem State.raiseFatal_pc (k : FatalKind) : (s.raiseFatal k).pc = s.pc := rfl
@[simp] theorem State.raiseFatal_stack (k : FatalKind) : (s.raiseFatal k).stack = s.stack := rfl
@[simp] theorem State.raiseFatal_sp (k : FatalKind) : (s.raiseFatal k).sp = s.sp := rfl
@[simp] theorem State.raiseFatal_dt (k : FatalKind) : (s.raiseFatal k).dt = s.dt := rfl
@[simp] theorem State.raiseFatal_st (k : FatalKind) : (s.raiseFatal k).st = s.st := rfl
@[simp] theorem State.raiseFatal_fb (k : FatalKind) : (s.raiseFatal k).fb = s.fb := rfl
@[simp] theorem State.raiseFatal_dirty (k : FatalKind) : (s.raiseFatal k).dirty = s.dirty := rfl
@[simp] theorem State.raiseFatal_keys (k : FatalKind) : (s.raiseFatal k).keys = s.keys := rfl
@[simp] theorem State.raiseFatal_mode (k : FatalKind) : (s.raiseFatal k).mode = s.mode := rfl
@[simp] theorem State.raiseFatal_waitReg (k : FatalKind) : (s.raiseFatal k).waitReg = s.waitReg := rfl
@[simp] theorem State.raiseFatal_halted (k : FatalKind) : (s.raiseFatal k).halted = some k := rfl
@[simp] theorem State.raiseFatal_diag (k : FatalKind) : (s.raiseFatal k).diag = s.diag := rfl
@[simp] theorem State.raiseFatal_params (k : FatalKind) : (s.raiseFatal k).params = s.params := rfl
@[simp] theorem State.raiseFatal_draws (k : FatalKind) : (s.raiseFatal k).draws = s.draws := rfl

@[simp] theorem State.report_mem (d : Diag) : (s.report d).mem = s.mem := rfl
@[simp] theorem State.report_v (d : Diag) : (s.report d).v = s.v := rfl
@[simp] theorem State.report_iReg (d : Diag) : (s.report d).iReg = s.iReg := rfl
@[simp] theorem State.report_pc (d : Diag) : (s.report d).pc = s.pc := rfl
@[simp] theorem State.report_stack (d : Diag) : (s.report d).stack = s.stack := rfl
@[simp] theorem State.report_sp (d : Diag) : (s.report d).sp = s.sp := rfl
@[simp] theorem State.report_dt (d : Diag) : (s.report d).dt = s.dt := rfl
@[simp] theorem State.report_st (d : Diag) : (s.report d).st = s.st := rfl
@[simp] theorem State.report_fb (d : Diag) : (s.report d).fb = s.fb := rfl
@[simp] theorem State.report_dirty (d : Diag) : (s.report d).dirty = s.dirty := rfl
@[simp] theorem State.report_keys (d : Diag) : (s.report d).keys = s.keys := rfl
@[simp] theorem State.report_mode (d : Diag) : (s.report d).mode = s.mode := rfl
@[simp] theorem State.report_waitReg (d : Diag) : (s.report d).waitReg = s.waitReg := rfl
@[simp] theorem State.report_halted (d : Diag) : (s.report d).halted = s.halted := rfl
@[simp] theorem State.report_diag (d : Diag) : (s.report d).diag = s.diag ++ [d] := rfl
@[simp] theorem State.report_params (d : Diag) : (s.report d).params = s.params := rfl
@[simp] theorem State.report_draws (d : Diag) : (s.report d).draws = s.draws := rfl

end Sys2Proof.Machine
end

