-- ==== Sys2Proof/Laws/Display.lean ====
section
/-! SUPPORT. The laws of pixels (R32, R171). -/

namespace Sys2Proof.Machine

variable {f : Framebuffer} {x y px py : Nat} {s t : State}

/-- Coordinates wrap (R32). -/
theorem fbGet_mod : fbGet f (x % 64) (y % 32) = fbGet f x y := by
  simp [fbGet]

/-- Flipping a pixel flips the one its coordinates wrap to and no other (R171). -/
theorem fbGet_fbFlip :
    fbGet (fbFlip f x y) px py =
      if px % 64 = x % 64 ∧ py % 32 = y % 32 then !fbGet f px py else fbGet f px py := by
  unfold fbGet fbFlip
  by_cases hx : px % 64 = x % 64
  · by_cases hy : py % 32 = y % 32
    · simp [hx, hy, fbGet]
    · simp [hx, hy, Ne.symm hy]
  · simp [hx, Ne.symm hx]

theorem State.getPixel_congr (h : t.fb = s.fb) : t.getPixel px py = s.getPixel px py := by
  simp only [State.getPixel, h]

/-- Two framebuffers with the same pixels are the same. -/
theorem fb_eq_of_fbGet_eq {g : Framebuffer} (h : ∀ px py, px < 64 → py < 32 → fbGet f px py = fbGet g px py) : f = g := by
  apply Vector.ext
  intro i hi
  apply Vector.ext
  intro j hj
  have := h i j hi hj
  simp only [fbGet, Nat.mod_eq_of_lt hi, Nat.mod_eq_of_lt hj] at this
  exact this

@[simp] theorem plot_fb {c : Canvas} : (plot c x y).fb = fbFlip c.fb x y := rfl

@[simp] theorem plot_hit {c : Canvas} : (plot c x y).hit = (c.hit || fbGet c.fb x y) := rfl

end Sys2Proof.Machine
end

