-- ==== Sys2Proof/Laws/Memory.lean ====
section
/-! SUPPORT. The laws of memory: a read after a write, the canonical form, and that it makes equal memories equal data. -/

namespace Sys2Proof.Machine

variable {d : Nat → Byte} {m m' : Memory} {lo lo' a b n : Nat} {x : Byte}

/-! Lists of cells. -/

theorem Memory.wfFrom_cons {u : Byte} :
    Memory.wfFrom d lo ((b, u) :: m) = true ↔
      lo ≤ b ∧ b < 4096 ∧ u ≠ d b ∧ Memory.wfFrom d (b + 1) m = true := by
  simp only [Memory.wfFrom, Bool.and_eq_true, decide_eq_true_eq, Config.memSize, and_assoc]

theorem Memory.wfFrom_mono (h : lo' ≤ lo) (hm : Memory.wfFrom d lo m = true) : Memory.wfFrom d lo' m = true := by
  cases m with
  | nil => rfl
  | cons c m =>
    obtain ⟨b, u⟩ := c
    rw [Memory.wfFrom_cons] at hm ⊢
    exact ⟨h.trans hm.1, hm.2⟩

/-- Below the first listed address every cell reads as d says. -/
theorem Memory.read_of_lt (hm : Memory.wfFrom d lo m = true) (h : a < lo) : Memory.read d m a = d a := by
  induction m generalizing lo with
  | nil => rfl
  | cons c m ih =>
    obtain ⟨b, u⟩ := c
    rw [Memory.wfFrom_cons] at hm
    simp [Memory.read, show a ≠ b by omega, ih hm.2.2.2 (by omega)]

theorem Memory.read_erase_same : Memory.read d (Memory.erase a m) a = d a := by
  induction m with
  | nil => rfl
  | cons c m ih =>
    obtain ⟨b, u⟩ := c
    by_cases h : a = b <;> simp [Memory.erase, Memory.read, h]
    · simpa [h] using ih
    · exact ih

theorem Memory.read_erase_ne (h : b ≠ a) : Memory.read d (Memory.erase a m) b = Memory.read d m b := by
  induction m with
  | nil => rfl
  | cons c m ih =>
    obtain ⟨e, u⟩ := c
    by_cases he : a = e
    · simp [Memory.erase, Memory.read, he, show b ≠ e by omega]
      simpa [he] using ih
    · simp [Memory.erase, Memory.read, he, ih]

theorem Memory.read_insert_ne (h : b ≠ a) : Memory.read d (Memory.insert a x m) b = Memory.read d m b := by
  induction m with
  | nil => simp [Memory.insert, Memory.read, h]
  | cons c m ih =>
    obtain ⟨e, u⟩ := c
    by_cases he : a < e <;> simp [Memory.insert, Memory.read, he, h, ih]

theorem Memory.read_insert_erase : Memory.read d (Memory.insert a x (Memory.erase a m)) a = x := by
  induction m with
  | nil => simp [Memory.erase, Memory.insert, Memory.read]
  | cons c m ih =>
    obtain ⟨e, u⟩ := c
    by_cases he : a = e
    · simpa [Memory.erase, he] using he ▸ ih
    · by_cases hl : a < e <;> simp [Memory.erase, Memory.insert, Memory.read, he, hl, ih]

/-- A read after a write to the same address gives the value written, in any memory. -/
theorem Memory.read_write_same : Memory.read d (Memory.write d m a x) a = x := by
  unfold Memory.write
  split
  · rename_i h
    rw [Memory.read_erase_same, h]
  · exact Memory.read_insert_erase

/-- A write leaves every other address alone. -/
theorem Memory.read_write_ne (h : b ≠ a) : Memory.read d (Memory.write d m a x) b = Memory.read d m b := by
  unfold Memory.write
  split
  · exact Memory.read_erase_ne h
  · rw [Memory.read_insert_ne h, Memory.read_erase_ne h]

theorem Memory.read_write : Memory.read d (Memory.write d m a x) b = if b = a then x else Memory.read d m b := by
  split
  · rename_i h
    rw [h, Memory.read_write_same]
  · rename_i h
    exact Memory.read_write_ne h

theorem Memory.wfFrom_erase (hm : Memory.wfFrom d lo m = true) : Memory.wfFrom d lo (Memory.erase a m) = true := by
  induction m generalizing lo with
  | nil => rfl
  | cons c m ih =>
    obtain ⟨b, u⟩ := c
    rw [Memory.wfFrom_cons] at hm
    unfold Memory.erase
    split
    · exact Memory.wfFrom_mono (by omega) (ih hm.2.2.2)
    · rw [Memory.wfFrom_cons]
      exact ⟨hm.1, hm.2.1, hm.2.2.1, ih hm.2.2.2⟩

theorem Memory.wfFrom_insert_erase (hm : Memory.wfFrom d lo m = true) (hlo : lo ≤ a) (ha : a < 4096) (hx : x ≠ d a) :
    Memory.wfFrom d lo (Memory.insert a x (Memory.erase a m)) = true := by
  induction m generalizing lo with
  | nil => simp [Memory.erase, Memory.insert, Memory.wfFrom, hx, hlo, ha]
  | cons c m ih =>
    obtain ⟨b, u⟩ := c
    rw [Memory.wfFrom_cons] at hm
    unfold Memory.erase
    split
    · exact ih (Memory.wfFrom_mono (by omega) hm.2.2.2) hlo
    · unfold Memory.insert
      split
      · rw [Memory.wfFrom_cons, Memory.wfFrom_cons]
        exact ⟨hlo, ha, hx, by omega, hm.2.1, hm.2.2.1, Memory.wfFrom_erase hm.2.2.2⟩
      · rw [Memory.wfFrom_cons]
        exact ⟨hm.1, hm.2.1, hm.2.2.1, ih hm.2.2.2 (by omega)⟩

/-- Writing a byte at an address that exists keeps the canonical form. -/
theorem Memory.wf_write (hm : Memory.wf d m = true) (ha : a < 4096) : Memory.wf d (Memory.write d m a x) = true := by
  unfold Memory.write
  split
  · exact Memory.wfFrom_erase hm
  · rename_i hx
    exact Memory.wfFrom_insert_erase hm (Nat.zero_le _) ha hx

/-- Two memories in canonical form that read alike are the same list. -/
theorem Memory.eq_of_read_eq (hm : Memory.wfFrom d lo m = true) (hm' : Memory.wfFrom d lo m' = true)
    (h : ∀ a, Memory.read d m a = Memory.read d m' a) : m = m' := by
  induction m generalizing lo m' with
  | nil =>
    cases m' with
    | nil => rfl
    | cons c m' =>
      obtain ⟨b, u⟩ := c
      rw [Memory.wfFrom_cons] at hm'
      have := h b
      simp only [Memory.read, if_true] at this
      exact absurd this.symm hm'.2.2.1
  | cons c m ih =>
    obtain ⟨b, u⟩ := c
    rw [Memory.wfFrom_cons] at hm
    cases m' with
    | nil =>
      have := h b
      simp only [Memory.read, if_true] at this
      exact absurd this hm.2.2.1
    | cons c' m' =>
      obtain ⟨b', u'⟩ := c'
      rw [Memory.wfFrom_cons] at hm'
      have hb : b = b' := by
        rcases Nat.lt_trichotomy b b' with hlt | heq | hgt
        · have := h b
          simp only [Memory.read, if_true, show b ≠ b' by omega, if_false] at this
          rw [Memory.read_of_lt hm'.2.2.2 (show b < b' + 1 by omega)] at this
          exact absurd this hm.2.2.1
        · exact heq
        · have := h b'
          simp only [Memory.read, if_true, show b' ≠ b by omega, if_false] at this
          rw [Memory.read_of_lt hm.2.2.2 (show b' < b + 1 by omega)] at this
          exact absurd this.symm hm'.2.2.1
      subst hb
      have hu : u = u' := by simpa [Memory.read] using h b
      subst hu
      rw [ih hm.2.2.2 hm'.2.2.2 fun a => ?_]
      by_cases hab : a < b + 1
      · rw [Memory.read_of_lt hm.2.2.2 hab, Memory.read_of_lt hm'.2.2.2 hab]
      · simpa [Memory.read, show a ≠ b by omega] using h a

/-! The memory of a state. -/

variable {s t : State} {xs : List Byte}

theorem State.memRead?_some (h : a < 4096) : s.memRead? a = some (Memory.read s.params.resetByte s.mem a) := by
  simp [State.memRead?, h]

theorem State.memRead?_none (h : 4096 ≤ a) : s.memRead? a = none := by
  simp [State.memRead?, show ¬a < 4096 by omega]

theorem State.memRead?_eq_none : s.memRead? a = none ↔ 4096 ≤ a := by
  by_cases h : a < 4096 <;> simp [State.memRead?, h]
  omega

/-- Reading depends on the cells and the parameters alone. -/
theorem State.memRead?_congr (hm : t.mem = s.mem) (hp : t.params = s.params) : t.memRead? a = s.memRead? a := by
  simp only [State.memRead?, hm, hp]

/-- A byte write changes the cells and nothing else. -/
theorem State.memWrite_eq : s.memWrite a x = s.setMem (Memory.write s.params.resetByte s.mem a x) := rfl

theorem State.memRead?_memWrite (ha : a < 4096) :
    (s.memWrite a x).memRead? b = if b = a then some x else s.memRead? b := by
  by_cases h : b = a
  · subst h
    simp [State.memRead?, State.memWrite, ha, Memory.read_write_same]
  · simp [State.memRead?, State.memWrite, h, Memory.read_write_ne h]

theorem State.memWf_memWrite (h : s.memWf = true) (ha : a < 4096) : (s.memWrite a x).memWf = true :=
  Memory.wf_write h ha

/-- Writing bytes changes the cells and nothing else. -/
theorem State.writeBytes_eq : ∃ m, s.writeBytes a xs = s.setMem m := by
  induction xs generalizing s a with
  | nil => exact ⟨s.mem, rfl⟩
  | cons x xs ih =>
    obtain ⟨m, hm⟩ := ih (s := s.memWrite a x) (a := a + 1)
    exact ⟨m, by rw [State.writeBytes, hm]; rfl⟩

/-- What every byte reads as after bytes are written: the written ones their values, all others as before. -/
theorem State.memRead?_writeBytes (h : a + xs.length ≤ 4096) :
    (s.writeBytes a xs).memRead? b =
      if a ≤ b ∧ b < a + xs.length then xs[b - a]? else s.memRead? b := by
  induction xs generalizing s a with
  | nil => simp [State.writeBytes, show ¬(a ≤ b ∧ b < a) by omega]
  | cons y ys ih =>
    simp only [List.length_cons] at h ⊢
    rw [State.writeBytes, ih (by omega), State.memRead?_memWrite (by omega)]
    rcases Nat.lt_trichotomy b a with hlt | heq | hgt
    · rw [if_neg (by omega), if_neg (by omega), if_neg (by omega)]
    · subst heq
      simp
    · simp only [show b ≠ a by omega, if_false]
      by_cases hin : b < a + 1 + ys.length
      · rw [if_pos ⟨by omega, hin⟩, if_pos ⟨by omega, by omega⟩, show b - a = (b - (a + 1)) + 1 by omega]
        simp
      · rw [if_neg (by omega), if_neg (by omega)]

theorem State.memWf_writeBytes (hs : s.memWf = true) (h : a + xs.length ≤ 4096) : (s.writeBytes a xs).memWf = true := by
  induction xs generalizing s a with
  | nil => exact hs
  | cons y ys ih =>
    simp only [List.length_cons] at h
    exact ih (State.memWf_memWrite hs (by omega)) (by omega)

/-- Storing bytes succeeds exactly when all of them fit below MEM_SIZE. -/
theorem State.storeBytes?_some (h : a + xs.length ≤ 4096) : s.storeBytes? a xs = some (s.writeBytes a xs) := by
  simp [State.storeBytes?, h]

theorem State.storeBytes?_none (h : 4096 < a + xs.length) : s.storeBytes? a xs = none := by
  simp [State.storeBytes?, show ¬a + xs.length ≤ 4096 by omega]

theorem State.storeBytes?_eq_some (h : s.storeBytes? a xs = some t) :
    a + xs.length ≤ 4096 ∧ t = s.writeBytes a xs := by
  unfold State.storeBytes? at h
  split at h
  · rename_i hle
    exact ⟨hle, by simpa using h.symm⟩
  · simp at h

theorem State.storeOrReport_stores {e : Diag} (h : a + xs.length ≤ 4096) : s.storeOrReport a xs e = s.writeBytes a xs := by
  rw [State.storeOrReport, State.storeBytes?_some h]

theorem State.storeOrReport_reports {e : Diag} (h : 4096 < a + xs.length) : s.storeOrReport a xs e = s.report e := by
  rw [State.storeOrReport, State.storeBytes?_none h]

/-- Loading n bytes gives n bytes, each the one at its address. -/
theorem State.loadBytes?_eq_some (h : s.loadBytes? a n = some xs) :
    xs.length = n ∧ ∀ j, j < n → s.memRead? (a + j) = xs[j]? := by
  induction n generalizing a xs with
  | zero => simp_all [State.loadBytes?]
  | succ n ih =>
    unfold State.loadBytes? at h
    split at h
    · rename_i y ys hy hys
      obtain ⟨hl, hr⟩ := ih hys
      simp only [Option.some.injEq] at h
      subst h
      refine ⟨by simp [hl], fun j hj => ?_⟩
      cases j with
      | zero => simpa using hy
      | succ j =>
        rw [show a + (j + 1) = a + 1 + j by omega, hr j (by omega)]
        simp
    · simp at h

theorem State.loadBytes?_some (h : a + n ≤ 4096) : ∃ xs, s.loadBytes? a n = some xs := by
  induction n generalizing a with
  | zero => exact ⟨[], rfl⟩
  | succ n ih =>
    obtain ⟨xs, hx⟩ := @ih (a + 1) (by omega)
    exact ⟨_, by simp only [State.loadBytes?, State.memRead?_some (show a < 4096 by omega), hx]; rfl⟩

theorem State.loadBytes?_none (h : 4096 < a + (n + 1)) : s.loadBytes? a (n + 1) = none := by
  induction n generalizing a with
  | zero => simp [State.loadBytes?, State.memRead?_none (show 4096 ≤ a by omega)]
  | succ n ih =>
    unfold State.loadBytes?
    rw [@ih (a + 1) (by omega)]
    split <;> simp_all

end Sys2Proof.Machine
end

