-- ==== Sys2Proof/Laws/PerInstr.lean ====
section
/-! SUPPORT. Statements about every instruction, made constructor by constructor: the encoding matches the instruction's row
of the opcode map (R78). -/

namespace Sys2Proof.Laws

/-- The word an instruction encodes to matches the mask and pattern of its row (R78). -/
def TableRow.Statement (i : Instr) : Prop := (opcodeRow i).matches (encode i) = true

theorem TableRow.cls : TableRow.Statement .cls := by
  unfold TableRow.Statement
  decide

theorem TableRow.ret : TableRow.Statement .ret := by
  unfold TableRow.Statement
  decide

theorem TableRow.jp (nnn : Addr) : TableRow.Statement (.jp nnn) := by
  simp [TableRow.Statement, OpcodeRow.matches, opcodeRow, encode, and_mask_op]
  decide

theorem TableRow.call (nnn : Addr) : TableRow.Statement (.call nnn) := by
  simp [TableRow.Statement, OpcodeRow.matches, opcodeRow, encode, and_mask_op]
  decide

theorem TableRow.seVxKk (x : Reg) (kk : Byte) : TableRow.Statement (.seVxKk x kk) := by
  simp [TableRow.Statement, OpcodeRow.matches, opcodeRow, encode, and_mask_op]
  decide

theorem TableRow.sneVxKk (x : Reg) (kk : Byte) : TableRow.Statement (.sneVxKk x kk) := by
  simp [TableRow.Statement, OpcodeRow.matches, opcodeRow, encode, and_mask_op]
  decide

theorem TableRow.seVxVy (x : Reg) (y : Reg) : TableRow.Statement (.seVxVy x y) := by
  simp [TableRow.Statement, OpcodeRow.matches, opcodeRow, encode, and_mask_op_n]
  decide

theorem TableRow.ldVxKk (x : Reg) (kk : Byte) : TableRow.Statement (.ldVxKk x kk) := by
  simp [TableRow.Statement, OpcodeRow.matches, opcodeRow, encode, and_mask_op]
  decide

theorem TableRow.addVxKk (x : Reg) (kk : Byte) : TableRow.Statement (.addVxKk x kk) := by
  simp [TableRow.Statement, OpcodeRow.matches, opcodeRow, encode, and_mask_op]
  decide

theorem TableRow.ldVxVy (x : Reg) (y : Reg) : TableRow.Statement (.ldVxVy x y) := by
  simp [TableRow.Statement, OpcodeRow.matches, opcodeRow, encode, and_mask_op_n]
  decide

theorem TableRow.orVxVy (x : Reg) (y : Reg) : TableRow.Statement (.orVxVy x y) := by
  simp [TableRow.Statement, OpcodeRow.matches, opcodeRow, encode, and_mask_op_n]
  decide

theorem TableRow.andVxVy (x : Reg) (y : Reg) : TableRow.Statement (.andVxVy x y) := by
  simp [TableRow.Statement, OpcodeRow.matches, opcodeRow, encode, and_mask_op_n]
  decide

theorem TableRow.xorVxVy (x : Reg) (y : Reg) : TableRow.Statement (.xorVxVy x y) := by
  simp [TableRow.Statement, OpcodeRow.matches, opcodeRow, encode, and_mask_op_n]
  decide

theorem TableRow.addVxVy (x : Reg) (y : Reg) : TableRow.Statement (.addVxVy x y) := by
  simp [TableRow.Statement, OpcodeRow.matches, opcodeRow, encode, and_mask_op_n]
  decide

theorem TableRow.subVxVy (x : Reg) (y : Reg) : TableRow.Statement (.subVxVy x y) := by
  simp [TableRow.Statement, OpcodeRow.matches, opcodeRow, encode, and_mask_op_n]
  decide

theorem TableRow.shrVx (x : Reg) (y : Reg) : TableRow.Statement (.shrVx x y) := by
  simp [TableRow.Statement, OpcodeRow.matches, opcodeRow, encode, and_mask_op_n]
  decide

theorem TableRow.subnVxVy (x : Reg) (y : Reg) : TableRow.Statement (.subnVxVy x y) := by
  simp [TableRow.Statement, OpcodeRow.matches, opcodeRow, encode, and_mask_op_n]
  decide

theorem TableRow.shlVx (x : Reg) (y : Reg) : TableRow.Statement (.shlVx x y) := by
  simp [TableRow.Statement, OpcodeRow.matches, opcodeRow, encode, and_mask_op_n]
  decide

theorem TableRow.sneVxVy (x : Reg) (y : Reg) : TableRow.Statement (.sneVxVy x y) := by
  simp [TableRow.Statement, OpcodeRow.matches, opcodeRow, encode, and_mask_op_n]
  decide

theorem TableRow.ldINnn (nnn : Addr) : TableRow.Statement (.ldINnn nnn) := by
  simp [TableRow.Statement, OpcodeRow.matches, opcodeRow, encode, and_mask_op]
  decide

theorem TableRow.jpV0Nnn (nnn : Addr) : TableRow.Statement (.jpV0Nnn nnn) := by
  simp [TableRow.Statement, OpcodeRow.matches, opcodeRow, encode, and_mask_op]
  decide

theorem TableRow.rndVxKk (x : Reg) (kk : Byte) : TableRow.Statement (.rndVxKk x kk) := by
  simp [TableRow.Statement, OpcodeRow.matches, opcodeRow, encode, and_mask_op]
  decide

theorem TableRow.drwVxVyN (x : Reg) (y : Reg) (n : Nibble) : TableRow.Statement (.drwVxVyN x y n) := by
  simp [TableRow.Statement, OpcodeRow.matches, opcodeRow, encode, and_mask_op]
  decide

theorem TableRow.skpVx (x : Reg) : TableRow.Statement (.skpVx x) := by
  simp [TableRow.Statement, OpcodeRow.matches, opcodeRow, encode, and_mask_op_kk]
  decide

theorem TableRow.sknpVx (x : Reg) : TableRow.Statement (.sknpVx x) := by
  simp [TableRow.Statement, OpcodeRow.matches, opcodeRow, encode, and_mask_op_kk]
  decide

theorem TableRow.ldVxDT (x : Reg) : TableRow.Statement (.ldVxDT x) := by
  simp [TableRow.Statement, OpcodeRow.matches, opcodeRow, encode, and_mask_op_kk]
  decide

theorem TableRow.ldVxK (x : Reg) : TableRow.Statement (.ldVxK x) := by
  simp [TableRow.Statement, OpcodeRow.matches, opcodeRow, encode, and_mask_op_kk]
  decide

theorem TableRow.ldDTVx (x : Reg) : TableRow.Statement (.ldDTVx x) := by
  simp [TableRow.Statement, OpcodeRow.matches, opcodeRow, encode, and_mask_op_kk]
  decide

theorem TableRow.ldSTVx (x : Reg) : TableRow.Statement (.ldSTVx x) := by
  simp [TableRow.Statement, OpcodeRow.matches, opcodeRow, encode, and_mask_op_kk]
  decide

theorem TableRow.addIVx (x : Reg) : TableRow.Statement (.addIVx x) := by
  simp [TableRow.Statement, OpcodeRow.matches, opcodeRow, encode, and_mask_op_kk]
  decide

theorem TableRow.ldFVx (x : Reg) : TableRow.Statement (.ldFVx x) := by
  simp [TableRow.Statement, OpcodeRow.matches, opcodeRow, encode, and_mask_op_kk]
  decide

theorem TableRow.ldBVx (x : Reg) : TableRow.Statement (.ldBVx x) := by
  simp [TableRow.Statement, OpcodeRow.matches, opcodeRow, encode, and_mask_op_kk]
  decide

theorem TableRow.ldMemVx (x : Reg) : TableRow.Statement (.ldMemVx x) := by
  simp [TableRow.Statement, OpcodeRow.matches, opcodeRow, encode, and_mask_op_kk]
  decide

theorem TableRow.ldVxMem (x : Reg) : TableRow.Statement (.ldVxMem x) := by
  simp [TableRow.Statement, OpcodeRow.matches, opcodeRow, encode, and_mask_op_kk]
  decide

end Sys2Proof.Laws
end

