-- ==== Sys2Proof/Laws/Registers.lean ====
section
/-! SUPPORT. The laws of the registers, the key lines, the stack and the flags. -/

namespace Sys2Proof.Machine

variable {s t : State} {x y : Reg} {b c : Byte} {bs : List Byte} {j : Nat}

/-! Registers. -/

theorem State.setReg_eq : s.setReg x b = s.setV (s.v.set x.toNat b) := rfl

theorem State.reg_congr (h : t.v = s.v) : t.reg x = s.reg x := by simp only [State.reg, h]

@[simp] theorem State.reg_setReg : (s.setReg x b).reg y = if y = x then b else s.reg y := by
  by_cases h : y = x
  · simp [State.reg, State.setReg, h]
  · have : x.toNat ≠ y.toNat := fun e => h (BitVec.eq_of_toNat_eq e.symm)
    simp [State.reg, State.setReg, h, this]

/-- Writing a run of registers changes the register file and nothing else. -/
theorem State.setRegsFrom_eq : ∃ r, s.setRegsFrom j bs = s.setV r := by
  induction bs generalizing s j with
  | nil => exact ⟨s.v, rfl⟩
  | cons b bs ih =>
    obtain ⟨r, hr⟩ := ih (s := if j < 16 then s.setReg (BitVec.ofNat 4 j) b else s) (j := j + 1)
    refine ⟨r, ?_⟩
    rw [State.setRegsFrom, hr]
    split <;> rfl

/-- What every register holds after a run of registers is written. -/
theorem State.reg_setRegsFrom (h : j + bs.length ≤ 16) :
    (s.setRegsFrom j bs).reg x =
      if j ≤ x.toNat ∧ x.toNat < j + bs.length then bs.getD (x.toNat - j) 0 else s.reg x := by
  induction bs generalizing s j with
  | nil => simp [State.setRegsFrom, show ¬(j ≤ x.toNat ∧ x.toNat < j) by omega]
  | cons b bs ih =>
    simp only [List.length_cons] at h ⊢
    rw [State.setRegsFrom, if_pos (show j < 16 by omega), ih (by omega), State.reg_setReg]
    have hx : x = BitVec.ofNat 4 j ↔ x.toNat = j := by
      rw [← BitVec.toNat_inj, BitVec.toNat_ofNat, Nat.mod_eq_of_lt (show j < 2 ^ 4 by omega)]
    rcases Nat.lt_trichotomy x.toNat j with hlt | heq | hgt
    · rw [if_neg (by omega), if_neg (by rw [hx]; omega), if_neg (by omega)]
    · rw [if_neg (by omega), if_pos (hx.2 heq), if_pos (by omega)]
      simp [heq]
    · by_cases hin : x.toNat < j + 1 + bs.length
      · rw [if_pos (by omega), if_pos (by omega), show x.toNat - j = (x.toNat - (j + 1)) + 1 by omega]
        simp
      · rw [if_neg (by omega), if_neg (by rw [hx]; omega), if_neg (by omega)]

theorem State.regsUpTo_length : (s.regsUpTo x).length = x.toNat + 1 := by
  have := x.isLt
  simp [State.regsUpTo]
  omega

theorem State.regsUpTo_getElem? (h : y.toNat ≤ x.toNat) : (s.regsUpTo x)[y.toNat]? = some (s.reg y) := by
  have := y.isLt
  simp only [State.regsUpTo, State.reg, List.getElem?_take, show y.toNat < x.toNat + 1 by omega, if_true]
  simp

/-! Flags. -/

/-- The 8xyN forms change the register file and nothing else. -/
theorem State.setResultThenFlag_eq : ∃ r, s.setResultThenFlag x b c = s.setV r := ⟨_, rfl⟩

@[simp] theorem State.reg_setResultThenFlag :
    (s.setResultThenFlag x b c).reg y = if y = vf then c else if y = x then b else s.reg y := by
  simp [State.setResultThenFlag]

theorem State.setLogicResult_eq : ∃ r, s.setLogicResult x b = s.setV r := by
  unfold State.setLogicResult
  split
  · exact ⟨_, rfl⟩
  · exact ⟨_, rfl⟩

theorem State.setLogicResult_unchanged (h : s.params.logicVf = .unchanged) : s.setLogicResult x b = s.setReg x b := by
  simp [State.setLogicResult, h]

theorem State.setLogicResult_zero (h : s.params.logicVf = .zero) :
    s.setLogicResult x b = s.setResultThenFlag x b 0 := by
  simp [State.setLogicResult, h]

/-! Key lines. -/

theorem State.key_congr (h : t.keys = s.keys) : t.key x = s.key x := by simp only [State.key, h]

@[simp] theorem State.key_setKey {p : Bool} : (s.setKey x p).key y = if y = x then p else s.key y := by
  by_cases h : y = x
  · simp [State.key, State.setKey, h]
  · have : x.toNat ≠ y.toNat := fun e => h (BitVec.eq_of_toNat_eq e.symm)
    simp [State.key, State.setKey, h, this]

theorem keyLine?_toNat : keyLine? x.toNat = some x := by
  have := x.isLt
  simp [keyLine?, show x.toNat ≤ 15 by omega]

theorem keyLine?_none (h : 0xF < j) : keyLine? j = none := by
  simp [keyLine?, show ¬j ≤ 15 by omega]

/-! The call stack. -/

/-- A push below capacity: the entry at sp and sp itself change, nothing else. -/
theorem State.push?_some {a : Word} (h : s.sp.val < 16) :
    ∃ k n, s.push? a = some (s.setStack k n) ∧ n.val = s.sp.val + 1 ∧ k[s.sp.val]? = some a ∧
      ∀ i, i ≠ s.sp.val → k[i]? = s.stack[i]? := by
  refine ⟨_, _, by simp only [State.push?, dif_pos h]; rfl, rfl, ?_, fun i hi => ?_⟩
  · simp
  · simp [Ne.symm hi]

theorem State.push?_none {a : Word} (h : s.sp.val = 16) : s.push? a = none := by
  simp [State.push?, h]

/-- A pop of a non-empty stack: sp changes, nothing else. -/
theorem State.pop?_some (h : 0 < s.sp.val) :
    ∃ a n, s.pop? = some (a, s.setStack s.stack n) ∧ s.stack[s.sp.val - 1]? = some a ∧ n.val + 1 = s.sp.val := by
  have := s.sp.isLt
  refine ⟨_, _, by simp only [State.pop?, dif_pos h]; rfl, ?_, ?_⟩
  · simp
  · simp only []
    omega

theorem State.pop?_none (h : s.sp.val = 0) : s.pop? = none := by
  simp [State.pop?, h]

/-! Skips. -/

theorem State.skipIf_eq {p : Bool} : s.skipIf p = s.setPc (if p then s.pc + 2 else s.pc) := by
  cases p <;> rfl

end Sys2Proof.Machine
end

