-- ==== Sys2Proof/Laws/Step.lean ====
section
/-! SUPPORT. What fetching finds, and the forms a step can take: the inversion lemmas of R70 and R216. -/

namespace Sys2Proof.Machine

variable {s t : State} {w : Word} {k : FatalKind} {i : Instr} {n : Nat} {row : Byte}

/-! Fetching. -/

/-- Two bytes remain at pc: the fetch reads their big-endian word. -/
theorem State.fetch16?_some (h : s.pc.toNat ≤ 4094) :
    ∃ hi lo, s.memRead? s.pc.toNat = some hi ∧ s.memRead? (s.pc.toNat + 1) = some lo ∧
      s.fetch16? = some (wordOfBytes hi lo) := by
  refine ⟨_, _, State.memRead?_some (by omega), State.memRead?_some (by omega), ?_⟩
  simp only [State.fetch16?, State.memRead?_some (show s.pc.toNat < 4096 by omega),
    State.memRead?_some (show s.pc.toNat + 1 < 4096 by omega)]

theorem State.fetch16?_none (h : 4094 < s.pc.toNat) : s.fetch16? = none := by
  simp only [State.fetch16?, State.memRead?_none (show 4096 ≤ s.pc.toNat + 1 by omega)]
  split <;> simp_all

theorem State.fetch16?_bound (h : s.fetch16? = some w) : s.pc.toNat ≤ 4094 := by
  by_contra hn
  rw [State.fetch16?_none (by omega)] at h
  cases h

/-- Two bytes known to be at pc make up the fetched word. -/
theorem State.fetch16?_of_bytes {hi lo : Byte} (h : s.memRead? s.pc.toNat = some hi)
    (h' : s.memRead? (s.pc.toNat + 1) = some lo) : s.fetch16? = some (wordOfBytes hi lo) := by
  simp only [State.fetch16?, h, h']

/-! What a step finds first. -/

theorem State.fetched_ended (h : s.halted = some k) : s.fetched = .ended k := by
  simp only [State.fetched, h]

theorem State.fetched_waiting (h : s.halted = none) (hm : s.mode = .awaitingKey) : s.fetched = .waiting := by
  simp only [State.fetched, h, hm]

theorem State.fetched_outOfBounds (h : s.halted = none) (hm : s.mode = .running) (hp : 4094 < s.pc.toNat) :
    s.fetched = .outOfBounds := by
  simp only [State.fetched, h, hm, State.fetch16?_none hp]

theorem State.fetched_run (h : s.halted = none) (hm : s.mode = .running) (hw : s.fetch16? = some w)
    (hd : decodeWord s.params w = .ok i) : s.fetched = .run i := by
  simp only [State.fetched, h, hm, hw, hd]

theorem State.fetched_unknown {why : UnknownWord} (h : s.halted = none) (hm : s.mode = .running)
    (hw : s.fetch16? = some w) (hd : decodeWord s.params w = .error why) : s.fetched = .unknown w := by
  simp only [State.fetched, h, hm, hw, hd]

/-- Everything a step of a session that has not ended can be: a wait, a failed fetch, an unknown word, or an instruction. -/
theorem step_cases (h : step s = .next t) :
    s.halted = none ∧
      ((s.mode = .awaitingKey ∧ t = s) ∨
        (s.mode = .running ∧ 4094 < s.pc.toNat ∧ t = s.failFetch) ∨
        (s.mode = .running ∧ s.pc.toNat ≤ 4094 ∧ ∃ w, s.fetch16? = some w ∧
          ((∃ why, decodeWord s.params w = .error why ∧ s.fetched = .unknown w ∧ t = s.skipUnknown w) ∨
            ∃ i, decodeWord s.params w = .ok i ∧ s.fetched = .run i ∧ exec i s.advance = .next t))) := by
  cases hh : s.halted with
  | some k => simp [step, State.fetched_ended hh] at h
  | none =>
    refine ⟨rfl, ?_⟩
    cases hm : s.mode with
    | awaitingKey =>
      simp only [step, State.fetched_waiting hh hm, Host.Outcome.next.injEq] at h
      exact .inl ⟨rfl, h.symm⟩
    | running =>
      right
      cases hw : s.fetch16? with
      | none =>
        have hp : 4094 < s.pc.toNat := by
          by_contra hn
          obtain ⟨_, _, _, _, e⟩ := State.fetch16?_some (s := s) (by omega)
          simp [e] at hw
        simp only [step, State.fetched_outOfBounds hh hm hp, Host.Outcome.next.injEq] at h
        exact .inl ⟨rfl, hp, h.symm⟩
      | some w =>
        refine .inr ⟨rfl, State.fetch16?_bound hw, w, rfl, ?_⟩
        cases hd : decodeWord s.params w with
        | error why =>
          have hf := State.fetched_unknown hh hm hw hd
          simp only [step, hf, Host.Outcome.next.injEq] at h
          exact .inl ⟨why, rfl, hf, h.symm⟩
        | ok i =>
          have hf := State.fetched_run hh hm hw hd
          simp only [step, hf] at h
          exact .inr ⟨i, rfl, hf, h⟩

/-- A state-changing operation that answers a next state started from a session that has not ended. -/
theorem unlessHalted_next {α : Type} {r r' : α} (h : s.unlessHalted r = .next r') : s.halted = none ∧ r' = r := by
  unfold State.unlessHalted at h
  split at h
  · cases h
  · rename_i hn
    exact ⟨hn, by simpa using h.symm⟩

theorem unlessHalted_some {α : Type} {r : α} (h : s.halted = some k) : s.unlessHalted r = .fault (.sessionOver k) := by
  simp only [State.unlessHalted, h]

theorem unlessHalted_none {α : Type} {r : α} (h : s.halted = none) : s.unlessHalted r = .next r := by
  simp only [State.unlessHalted, h]

/-! How a run ends (R244). -/

theorem State.runEnd_fatal (h : s.halted = some k) : s.runEnd = .fatal k := by
  simp only [State.runEnd, h]

theorem State.runEnd_waiting (h : s.halted = none) (hm : s.mode = .awaitingKey) : s.runEnd = .waiting s.waitReg := by
  simp only [State.runEnd, h, hm]

theorem State.runEnd_ceased (h : s.halted = none) (hm : s.mode = .running) : s.runEnd = .ceased := by
  simp only [State.runEnd, h, hm]

/-- Running one list of operations and then another is running the two joined. -/
theorem runOps_append {os os' : List Op} (h : runOps os s = .next t) : runOps (os ++ os') s = runOps os' t := by
  induction os generalizing s with
  | nil =>
    cases h
    rfl
  | cons o os ih =>
    simp only [runOps, List.cons_append] at h ⊢
    cases ho : applyOp o s with
    | next s' =>
      rw [ho] at h
      exact ih h
    | fault f =>
      rw [ho] at h
      cases h
    | refused r =>
      rw [ho] at h
      cases h

/-- A run that a refused operation has stopped stays stopped, whatever the host calls after it. -/
theorem runOps_append_fault {f : Fault} {os os' : List Op} (h : runOps os s = .fault f) :
    runOps (os ++ os') s = .fault f := by
  induction os generalizing s with
  | nil => cases h
  | cons o os ih =>
    simp only [runOps, List.cons_append] at h ⊢
    cases ho : applyOp o s with
    | next s' =>
      rw [ho] at h
      exact ih h
    | fault g =>
      rw [ho] at h
      exact h
    | refused r =>
      rw [ho] at h
      cases h

/-! Sprite rows. -/

/-- The rows DRW reads: row r is the byte at its address, for r below the height and addresses that exist (R172). -/
theorem State.spriteRows_getElem? {a r : Nat} :
    (s.spriteRows a n)[r]? = if r < n then s.memRead? (a + r) else none := by
  induction n generalizing a r with
  | zero => simp [State.spriteRows]
  | succ n ih =>
    unfold State.spriteRows
    split
    · rename_i row h
      cases r with
      | zero => simp [h]
      | succ r => simp [ih, show a + 1 + r = a + (r + 1) by omega]
    · rename_i h
      rw [State.memRead?_eq_none] at h
      rw [State.memRead?_none (by omega)]
      simp

theorem State.spriteRows_length {a : Nat} : (s.spriteRows a n).length ≤ n := by
  induction n generalizing a with
  | zero => simp [State.spriteRows]
  | succ n ih =>
    unfold State.spriteRows
    split <;> simp [ih]

end Sys2Proof.Machine
end

