-- ==== Sys2Proof/Tests/Slice0.lean ====
section
/-! SUPPORT. The model's own tests. The expected results are the vectors of spec/95_test_vectors.md, named in each comment
(V-A1 and so on; S1 to S12 are the source's own examples), or worked by hand from R74 and R78. After them, one named witness
for the hypotheses of each statement of Obligations.lean. -/

namespace Sys2Proof.Tests

open Sys2Proof.Machine

-- one test after another: checked side by side, tests of this kind need a thread each
set_option Elab.async false

/-! ## Well-formedness and decoding -/

/-- The machine of decision D5 without 8xy0. -/
def noCopy : Params := { Params.standard with has8xy0 := false }

/-- The machine of decision D6 whose logic operations clear VF. -/
def logicZero : Params := { Params.standard with logicVf := .zero }

/-- The one check of WellFormed: 8xy0 is refused on a machine without it. -/
theorem test_wellformed_refuses_copy : WellFormed noCopy (.ldVxVy 1 2) = false := by decide

theorem test_wellformed_accepts : WellFormed Params.standard (.ldVxVy 1 2) = true ∧ WellFormed noCopy (.orVxVy 1 2) = true := by
  decide

/-- Families 0x0 to 0x2 and 0xA, 0xB: the low byte, or nnn = bits 11 to 0 (R77, R78; V-E4 and V-C8 for the x nibble). -/
theorem test_decode_system_and_jumps :
    decodeTableWord 16 0b0000000011100000 = some .cls ∧ decodeTableWord 16 0x01E0 = some .cls ∧
    decodeTableWord 16 0b0000000011101110 = some .ret ∧ decodeTableWord 16 0x0AEE = some .ret ∧
    decodeTableWord 16 0b0001001000110100 = some (.jp 0x234) ∧
    decodeTableWord 16 0b0010001100000000 = some (.call 0x300) ∧
    decodeTableWord 16 0b1011001100000000 = some (.jpV0Nnn 0x300) ∧
    decodeTableWord 16 0b1010001011110000 = some (.ldINnn 0x2F0) := by decide +kernel

/-- Layouts XKK and XY0 of the skips (R74, R78). -/
theorem test_decode_skips :
    decodeTableWord 16 0b0011001101000010 = some (.seVxKk 3 0x42) ∧
    decodeTableWord 16 0b0100001101000010 = some (.sneVxKk 3 0x42) ∧
    decodeTableWord 16 0b0101000100100000 = some (.seVxVy 1 2) ∧
    decodeTableWord 16 0b1001000100100000 = some (.sneVxVy 1 2) ∧
    decodeTableWord 16 0b1110010110011110 = some (.skpVx 5) ∧
    decodeTableWord 16 0b1110010110100001 = some (.sknpVx 5) := by decide +kernel

/-- The register and arithmetic families (R74, R78): x is bits 11 to 8, y bits 7 to 4. -/
theorem test_decode_alu :
    decodeTableWord 16 0b0110101000101111 = some (.ldVxKk 10 0x2F) ∧
    decodeTableWord 16 0b0111000100000010 = some (.addVxKk 1 0x02) ∧
    decodeTableWord 16 0b1000000100100000 = some (.ldVxVy 1 2) ∧
    decodeTableWord 16 0b1000000100100001 = some (.orVxVy 1 2) ∧
    decodeTableWord 16 0b1000000100100010 = some (.andVxVy 1 2) ∧
    decodeTableWord 16 0b1000000100100011 = some (.xorVxVy 1 2) ∧
    decodeTableWord 16 0b1000000100100100 = some (.addVxVy 1 2) ∧
    decodeTableWord 16 0b1000111100010101 = some (.subVxVy 15 1) ∧
    decodeTableWord 16 0b1000000100110110 = some (.shrVx 1 3) ∧
    decodeTableWord 16 0b1000000100100111 = some (.subnVxVy 1 2) ∧
    decodeTableWord 16 0b1000000100101110 = some (.shlVx 1 2) ∧
    decodeTableWord 16 0b1100010111111111 = some (.rndVxKk 5 0xFF) := by decide +kernel

/-- Layout XYN of DRW and layout XFN of family 0xF (R74, R78). -/
theorem test_decode_draw_and_misc :
    decodeTableWord 16 0b1101000000010010 = some (.drwVxVyN 0 1 2) ∧
    decodeTableWord 16 0b1111001000000111 = some (.ldVxDT 2) ∧
    decodeTableWord 16 0b1111001100001010 = some (.ldVxK 3) ∧
    decodeTableWord 16 0b1111000100010101 = some (.ldDTVx 1) ∧
    decodeTableWord 16 0b1111000100011000 = some (.ldSTVx 1) ∧
    decodeTableWord 16 0b1111001000011110 = some (.addIVx 2) ∧
    decodeTableWord 16 0b1111001100101001 = some (.ldFVx 3) ∧
    decodeTableWord 16 0b1111000000110011 = some (.ldBVx 0) ∧
    decodeTableWord 16 0b1111001001010101 = some (.ldMemVx 2) ∧
    decodeTableWord 16 0b1111001001100101 = some (.ldVxMem 2) := by decide +kernel

/-- Unknown words (V-C15, V-C19, V-A28, V-E3). -/
theorem test_decode_unknown :
    ∀ w ∈ ([0x5121, 0x912F, 0x8008, 0x800D, 0x800F, 0x0000, 0x0123, 0x00FF, 0xE000, 0xE09F, 0xF000, 0xF0FF, 0xFFFF] : List Nat),
      decodeTableWord 16 w = none := by decide +kernel

/-- Without HAS_8XY0 the copy alone is unknown (V-A4). -/
theorem test_decode_without_copy :
    decodeWord noCopy 0x8120 = .error .copyAbsent ∧ decodeWord noCopy 0x8121 = .ok (.orVxVy 1 2) := by decide +kernel

/-- The encoder against words of spec/95_test_vectors.md. -/
theorem test_encode :
    encode (.seVxKk 3 0x42) = 0x3342 ∧ encode (.jp 0xFFE) = 0x1FFE ∧ encode (.subVxVy 15 1) = 0x8F15 ∧
    encode (.drwVxVyN 15 0 1) = 0xDF01 ∧ encode (.ldMemVx 15) = 0xFF55 ∧ encode .ret = 0x00EE := by decide +kernel

/-! ## One step -/

/-- What a step leaves with the word w placed at pc. -/
def after (w : Nat) (s : State) : Option State :=
  match step (s.withFetchWord 16 w) with
  | .next t => some t
  | _ => none

/-- What a host operation leaves. -/
def afterOp (o : Op) (s : State) : Option State :=
  match applyOp o s with
  | .next t => some t
  | _ => none

/-- The reset state with some registers written. -/
def regs (l : List (Reg × Byte)) : State := l.foldl (fun s r => s.setReg r.1 r.2) State.reset

/-- The same with I and some bytes of memory at it written. -/
def sprite (l : List (Reg × Byte)) (i : Word) (bytes : List Byte) : State := ((regs l).setI i).writeBytes i.toNat bytes

/-- The reset state in the middle of n calls, each return address 0x20A, with pc as given. -/
def nested (n : Fin 17) (pc : Word) : State := (State.reset.setPc pc).setStack (Vector.replicate 16 0x20A) n

/-- The reset state waiting for a key for V3 (V-K4). -/
def waiting : State := (State.reset.setMode .awaitingKey).setWaitReg 3

/-- The reset state after a fatal error. -/
def dead : State := State.reset.raiseFatal .stackOverflow

/-- V-C1 and V-C2: the jump; V-C20 and V-C21: the sum of the offset jump is not cut to 12 bits. -/
theorem test_jumps :
    (after 0x1234 State.reset).map (·.pc) = some 0x234 ∧ (after 0x1FFF State.reset).map (·.pc) = some 0xFFF ∧
    (after 0xB300 (regs [(0, 0x10)])).map (·.pc) = some 0x310 ∧
    (after 0xBFFF (regs [(0, 0xFF)])).map (·.pc) = some 0x10FE := by decide +kernel

/-- V-C4 and V-C5. -/
theorem test_call :
    (after 0x2300 (nested 0 0x208)).map (fun t => (t.stack[0], t.sp, t.pc)) = some (0x20A, 1, 0x300) ∧
    (after 0x2300 (nested 16 0x208)).map (fun t => (t.halted, t.sp, t.pc)) = some (some .stackOverflow, 16, 0x20A) := by
  decide +kernel

/-- V-C7 and V-C6. -/
theorem test_ret :
    (after 0x00EE (nested 1 0x210)).map (fun t => (t.pc, t.sp)) = some (0x20A, 0) ∧
    (after 0x00EE (nested 0 0x300)).map (fun t => (t.halted, t.sp, t.pc)) = some (some .stackUnderflow, 0, 0x302) := by
  decide +kernel

/-- V-C9 to V-C12. -/
theorem test_skips_immediate :
    (after 0x3342 (regs [(3, 0x42)])).map (·.pc) = some 0x204 ∧ (after 0x3342 (regs [(3, 0x41)])).map (·.pc) = some 0x202 ∧
    (after 0x4342 (regs [(3, 0x41)])).map (·.pc) = some 0x204 ∧ (after 0x4342 (regs [(3, 0x42)])).map (·.pc) = some 0x202 := by
  decide +kernel

/-- V-C13, V-C14, V-C17 and V-C18. -/
theorem test_skips_register :
    (after 0x5120 (regs [(1, 7), (2, 7)])).map (·.pc) = some 0x204 ∧ (after 0x5120 (regs [(1, 7), (2, 8)])).map (·.pc) = some 0x202 ∧
    (after 0x9120 (regs [(1, 7), (2, 8)])).map (·.pc) = some 0x204 ∧ (after 0x9550 (regs [(5, 9)])).map (·.pc) = some 0x202 := by
  decide +kernel

/-- V-C22 and V-C23: a skip is not bounded, and an odd pc is no error. -/
theorem test_skip_past_the_end :
    (after 0x3342 ((regs [(3, 0x42)]).setPc 0xFFC)).map (·.pc) = some 0x1000 ∧
    (after 0x3100 (State.reset.setPc 0x201)).map (·.pc) = some 0x205 := by decide +kernel

/-- V-A1 to V-A3. -/
theorem test_immediates :
    (after 0x6A2F State.reset).map (·.reg 10) = some 0x2F ∧
    (after 0x7102 (regs [(1, 0xFF), (15, 0x55)])).map (fun t => (t.reg 1, t.reg 15)) = some (0x01, 0x55) ∧
    (after 0x7F01 (regs [(15, 0xFF)])).map (·.reg 15) = some 0 := by decide +kernel

/-- V-A4 to V-A8. -/
theorem test_copy_and_logic :
    (after 0x8120 (regs [(2, 0x55)])).map (·.reg 1) = some 0x55 ∧
    (after 0x8121 (regs [(1, 0xF0), (2, 0x0F), (15, 0x77)])).map (fun t => (t.reg 1, t.reg 15)) = some (0xFF, 0x77) ∧
    (after 0x8122 (regs [(1, 0xF0), (2, 0x3C)])).map (·.reg 1) = some 0x30 ∧
    (after 0x8123 (regs [(1, 0xF0), (2, 0x3C)])).map (·.reg 1) = some 0xCC ∧
    (after 0x8113 (regs [(1, 0x5A)])).map (·.reg 1) = some 0 := by decide +kernel

/-- V-A4 and V-A5 at the other values of the parameters. -/
theorem test_copy_and_logic_other_parameters :
    (after 0x8120 { regs [(2, 0x55)] with params := noCopy }).map (fun t => (t.reg 1, t.diag)) =
      some (0, [.unknownOpcode 0x200 0x8120]) ∧
    (after 0x8121 { regs [(1, 0xF0), (2, 0x0F), (15, 0x77)] with params := logicZero }).map
      (fun t => (t.reg 1, t.reg 15)) = some (0xFF, 0) := by decide +kernel

/-- V-A9, V-A10, V-A12 and V-A14: the carry, VF as the destination, and the old VF as an operand. -/
theorem test_add :
    (after 0x8124 (regs [(1, 0xFF), (2, 0x01)])).map (fun t => (t.reg 1, t.reg 15)) = some (0x00, 1) ∧
    (after 0x8124 (regs [(1, 0xFE), (2, 0x01)])).map (fun t => (t.reg 1, t.reg 15)) = some (0xFF, 0) ∧
    (after 0x8F14 (regs [(15, 0x10), (1, 0x01)])).map (·.reg 15) = some 0 ∧
    (after 0x81F4 (regs [(1, 0x01), (15, 0xFF)])).map (fun t => (t.reg 1, t.reg 15)) = some (0x00, 1) := by decide +kernel

/-- V-A15 to V-A18, V-A23 and V-A24. -/
theorem test_sub_and_subn :
    (after 0x8125 (regs [(1, 0x07), (2, 0x05)])).map (fun t => (t.reg 1, t.reg 15)) = some (0x02, 1) ∧
    (after 0x8125 (regs [(1, 0x00), (2, 0x01)])).map (fun t => (t.reg 1, t.reg 15)) = some (0xFF, 0) ∧
    (after 0x8F15 (regs [(15, 0x20), (1, 0x10)])).map (·.reg 15) = some 1 ∧
    (after 0x8127 (regs [(1, 0x07), (2, 0x05)])).map (fun t => (t.reg 1, t.reg 15)) = some (0xFE, 0) ∧
    (after 0x8127 (regs [(1, 0x33), (2, 0x33)])).map (fun t => (t.reg 1, t.reg 15)) = some (0x00, 1) := by decide +kernel

/-- V-A20, V-A21, V-A26 and V-A27. -/
theorem test_shifts :
    (after 0x8136 (regs [(1, 0x04), (3, 0xFF)])).map (fun t => (t.reg 1, t.reg 15)) = some (0x02, 0) ∧
    (after 0x8F06 (regs [(15, 0x02)])).map (·.reg 15) = some 0 ∧
    (after 0x812E (regs [(1, 0xFF)])).map (fun t => (t.reg 1, t.reg 15)) = some (0xFE, 1) ∧
    (after 0x8F0E (regs [(15, 0x81)])).map (·.reg 15) = some 1 := by decide +kernel

/-- V-A29 and V-A31: with kk = 0 the result is 0 whatever is drawn, and with kk = 0xFF it is the draw. -/
theorem test_rnd (s t u : State) (h : exec (.rndVxKk 0 0x00) s = .next t) (k : exec (.rndVxKk 0 0xFF) s = .next u) :
    t.reg 0 = 0 ∧ u.reg 0 = Config.randByte s.draws := by
  simp only [exec, execRndVxKk] at h k
  cases h
  cases k
  constructor
  · simp [State.bumpDraws, State.setReg, State.setV, State.reg]
  · simp [State.bumpDraws, State.setReg, State.setV, State.reg]
    exact BitVec.and_allOnes (x := Config.randByte s.draws)

/-- V-M1 to V-M5. -/
theorem test_index :
    (after 0xA2F0 State.reset).map (·.iReg) = some 0x2F0 ∧
    (after 0xF21E ((regs [(2, 1)]).setI 0xFFFF)).map (fun t => (t.iReg, t.reg 15)) = some (0, 0) ∧
    (after 0xF21E ((regs [(2, 1)]).setI 0x0FFF)).map (·.iReg) = some 0x1000 ∧
    (after 0xF329 (regs [(3, 0x0F)])).map (·.iReg) = some 0x09B ∧
    (after 0xF329 (regs [(3, 0x1A)])).map (·.iReg) = some 0x082 := by decide +kernel

/-- V-M6, V-M8 and V-M9. -/
theorem test_bcd :
    (after 0xF033 (sprite [(0, 0xCD)] 0x300 [])).map (·.loadBytes? 0x300 3) = some (some [2, 0, 5]) ∧
    (after 0xF033 (sprite [(0, 0x7B)] 0xFFD [])).map (·.loadBytes? 0xFFD 3) = some (some [1, 2, 3]) ∧
    (after 0xF033 (sprite [(0, 0x7B)] 0xFFE [])).map (fun t => (t.diag, t.loadBytes? 0xFFE 2, t.pc)) =
      some ([.bcdOutOfBounds 0x200 0xF033 0xFFE], some [0, 0], 0x202) := by decide +kernel

/-- V-M10 to V-M12 and V-M16. -/
theorem test_store_registers :
    (after 0xF255 (sprite [(0, 1), (1, 2), (2, 3)] 0x400 [])).map (fun t => (t.loadBytes? 0x400 4, t.iReg)) =
      some (some [1, 2, 3, 0], 0x400) ∧
    (after 0xFF55 (sprite [(15, 9)] 0xFF0 [])).map (·.memRead? 0xFFF) = some (some 9) ∧
    (after 0xFF55 (sprite [(0, 7)] 0xFF1 [])).map (fun t => (t.diag, t.memRead? 0xFF1)) =
      some ([.storeOutOfBounds 0x200 0xFF55 0xFF1 16], some 0) ∧
    (after 0xF055 (sprite [(0, 0xAA)] 0x050 [])).map (·.memRead? 0x050) = some (some 0xAA) := by decide +kernel

/-- V-M13 to V-M15. -/
theorem test_load_registers :
    (after 0xF265 (sprite [(3, 0x99)] 0x300 [2, 0, 5])).map (fun t => (t.regsUpTo 3, t.iReg)) =
      some ([2, 0, 5, 0x99], 0x300) ∧
    (after 0xF065 (sprite [(0, 4)] 0xFFFF [])).map (fun t => (t.diag, t.reg 0)) =
      some ([.loadOutOfBounds 0x200 0xF065 0xFFFF 1], 4) ∧
    (after 0xFF65 ((sprite [] 0x350 []).memWrite 0x35F 0x42)).map (·.reg 15) = some 0x42 := by decide +kernel

/-- V-D1. -/
theorem test_cls :
    (after 0x00E0 ((regs [(15, 0x33)]).flipPixel 3 4).1).map (fun t => (t.getPixel 3 4, t.dirty, t.reg 15)) =
      some (false, true, 0x33) := by decide +kernel

/-- V-D4, V-D5 and V-D9: wrap by column and by row, and a coordinate read from VF before it is cleared. -/
theorem test_draw_wraps :
    (after 0xD011 (sprite [(0, 60)] 0x300 [0xFF])).map
      (fun t => ([59, 60, 63, 0, 3, 4].map (t.getPixel · 0), t.reg 15, t.dirty)) =
      some ([false, true, true, true, true, false], 0, true) ∧
    (after 0xD011 (sprite [(0, 0x40), (1, 0xFF)] 0x300 [0x80])).map (fun t => t.getPixel 0 31) = some true ∧
    (after 0xDF01 (sprite [(15, 5), (0, 2)] 0x300 [0x80])).map (fun t => (t.getPixel 5 2, t.reg 15)) = some (true, 0) := by
  decide +kernel

/-- V-D6, V-D7, V-D8 and V-D10: no rows, rows past the end of memory, and a collision. -/
theorem test_draw_edges :
    (after 0xD010 (sprite [(15, 1)] 0x300 [0xFF])).map (fun t => (t.getPixel 0 0, t.reg 15, t.dirty)) = some (false, 0, true) ∧
    (after 0xD013 (sprite [] 0xFFF [0x80])).map (fun t => (t.getPixel 0 0, t.getPixel 0 1, t.diag)) = some (true, false, []) ∧
    (after 0xD015 (sprite [(15, 1)] 0x1000 [])).map (fun t => (t.getPixel 0 0, t.reg 15, t.dirty)) = some (false, 0, true) ∧
    (after 0xD001 ((sprite [] 0x300 [0xC0]).flipPixel 0 0).1).map (fun t => (t.getPixel 0 0, t.getPixel 1 0, t.reg 15)) =
      some (false, true, 1) := by decide +kernel

/-- V-K1 to V-K3 and V-K6. -/
theorem test_key_skips :
    (after 0xE59E ((regs [(5, 0xA)]).setKey 0xA true)).map (·.pc) = some 0x204 ∧
    (after 0xE59E (regs [(5, 0xA)])).map (·.pc) = some 0x202 ∧
    (after 0xE5A1 (regs [(5, 3)])).map (·.pc) = some 0x204 ∧
    (after 0xE59E (regs [(5, 0x10)])).map (fun t => (t.diag, t.pc)) = some ([.invalidKeyIndex 0x200 0xE59E 0x10], 0x202) ∧
    (after 0xE5A1 ((regs [(5, 0x10)]).setPc 0x202)).map (fun t => (t.diag, t.pc)) =
      some ([.invalidKeyIndex 0x202 0xE5A1 0x10], 0x204) := by decide +kernel

/-- V-K4, V-K7, V-K8 and V-K5. -/
theorem test_key_wait :
    (after 0xF30A State.reset).map (fun t => (t.mode, t.waitReg, t.pc)) = some (.awaitingKey, 3, 0x202) ∧
    (after 0xF10A (State.reset.setKey 4 true)).map (·.mode) = some .awaitingKey ∧
    (afterOp (.keyPress 0xA) waiting).map (fun t => (t.reg 3, t.key 0xA, t.mode, t.pc)) =
      some (0xA, true, .running, 0x200) ∧
    (afterOp (.keyPress 0x10) waiting).map (fun t => (t.diag, t.mode)) = some ([.invalidKeyEvent 0x10], .awaitingKey) := by
  decide +kernel

/-- V-K9 to V-K11. -/
theorem test_timers :
    (after 0xF207 (State.reset.setDT 3)).map (·.reg 2) = some 3 ∧
    (after 0xF115 (regs [(1, 5)])).map (·.dt) = some 5 ∧
    (after 0xF118 (regs [(1, 2)])).map (fun t => (t.st, soundActive t)) = some (2, true) := by decide +kernel

/-- V-K12 and S10. -/
theorem test_tick :
    (afterOp .tick (State.reset.setDT 0xFF)).map (fun t => (t.dt, t.st)) = some (0xFE, 0) ∧
    (afterOp .tick (State.reset.setDT 1)).map (·.dt) = some 0 := by decide +kernel

/-- V-E1, V-E2 and V-E3. -/
theorem test_fetch_bound_and_unknown :
    (after 0 (State.reset.setPc 0xFFF)).map (fun t => (t.halted, t.pc)) = some (some .fetchOutOfBounds, 0xFFF) ∧
    (after 0x00E0 (State.reset.setPc 0xFFE)).map (fun t => (t.dirty, t.pc)) = some (true, 0x1000) ∧
    (after 0x0000 State.reset).map (fun t => (t.diag, t.pc)) = some ([.unknownOpcode 0x200 0x0000], 0x202) := by decide +kernel

/-- V-E8. -/
theorem test_ended_session :
    step dead = .fault (.sessionOver .stackOverflow) ∧ tick dead = .fault (.sessionOver .stackOverflow) ∧
    keyPress 1 dead = .fault (.sessionOver .stackOverflow) := ⟨rfl, rfl, rfl⟩

/-- V-E9 and V-E10. -/
theorem test_host_ports :
    (afterOp .clearDirty (State.reset.setDirty true)).map (·.dirty) = some false ∧
    (afterOp (.setPixel 64 0xFF) State.reset).map (fun t => (t.getPixel 0 31, t.dirty)) = some (true, false) := by
  decide +kernel

/-- The glyph of 1 in the reset memory (R152, table G3), and what lies before and after the glyphs. -/
theorem test_reset_memory :
    State.reset.loadBytes? 0x055 5 = some [0x20, 0x60, 0x20, 0x20, 0x70] ∧ State.reset.memRead? 0x04F = some 0 ∧
    State.reset.memRead? 0x0A0 = some 0 ∧ State.reset.memRead? 0x1000 = none := by decide +kernel

/-! ## Witnesses

For each statement with hypotheses, concrete states and operands that meet all of them, clause by clause, at the ends of the
clause's range. -/

/-- A running state with bytes at pc. -/
def placed (pc : Word) (bytes : List Byte) : State := (State.reset.setPc pc).writeBytes pc.toNat bytes

theorem witness_ConstructionLeavesResetValues :
    Params.standard.glyphs[79]? = some 0x80 ∧ (0x04F < 4096 ∧ ¬(0x050 ≤ 0x04F ∧ 0x04F ≤ 0x09F)) ∧
    (4095 < 4096 ∧ ¬(0x050 ≤ 4095 ∧ 4095 ≤ 0x09F)) ∧ (State.constructed noCopy).stack[15]? = some 0 := by decide +kernel

/-- The invariant holds at the reset state, and at one that has been called into sixteen times, reports and has ended. -/
theorem witness_inv : Inv State.reset ∧ Inv (((nested 16 0x202).raiseFatal .stackOverflow).report (.invalidKeyEvent 16)) := by
  constructor
  · refine ⟨rfl, by decide, ?_, trivial, by simp [State.reset, State.constructed]⟩
    intro j a h
    simp [State.reset, State.constructed, Vector.getElem?_replicate] at h
    simp [← h.2]
  · refine ⟨rfl, by decide, ?_, ⟨rfl, rfl⟩, ?_⟩
    · intro j a h
      simp [nested, State.report, State.raiseFatal, State.setStack, Vector.getElem?_replicate] at h
      simp [← h.2]
    · intro d h
      simp [nested, State.report, State.raiseFatal, State.setStack, State.setPc, State.reset, State.constructed] at h
      simp [h, Diag.justified]

theorem witness_StepKeepsInvariant : Inv State.reset ∧ ∃ t, step State.reset = .next t := ⟨witness_inv.1, _, rfl⟩

theorem witness_SessionKeepsInvariant :
    Inv State.reset ∧ ∃ t, runOps [.load [0xF3, 0x0A], .step, .tick, .keyPress 16, .keyPress 10, .step] State.reset = .next t :=
  ⟨witness_inv.1, _, rfl⟩

theorem witness_StepRunsTheDecodedInstruction :
    let s := placed 0xFFE [0x81, 0x24]
    s.halted = none ∧ s.mode = .running ∧ s.memRead? s.pc.toNat = some 0x81 ∧ s.memRead? (s.pc.toNat + 1) = some 0x24 ∧
    decode s.params [0x81, 0x24] = .ok (.addVxVy 1 2, []) := ⟨rfl, rfl, rfl, rfl, rfl⟩

theorem witness_FetchIsBigEndianAndBounded :
    (placed 0xFFF []).halted = none ∧ (placed 0xFFF []).mode = .running ∧ 4095 ≤ (placed 0xFFF []).pc.toNat ∧
    (placed 0xFFE []).pc.toNat ≤ 4094 ∧ decodeWord Params.standard 0x00E0 = .ok .cls ∧
    decodeWord Params.standard 0x0000 = .error .systemWord := ⟨rfl, rfl, by decide, by decide, rfl, rfl⟩

theorem witness_UnknownWordIsReportedAndSkipped :
    let s := placed 0xFFE [0x51, 0x21]
    s.halted = none ∧ s.mode = .running ∧ s.memRead? s.pc.toNat = some 0x51 ∧ s.memRead? (s.pc.toNat + 1) = some 0x21 ∧
    decodeWord s.params (wordOfBytes 0x51 0x21) = .error .registerSkipNibble := ⟨rfl, rfl, rfl, rfl, rfl⟩

theorem witness_StepChecksHaltedThenWaiting :
    dead.halted = some .stackOverflow ∧ waiting.halted = none ∧ waiting.mode = .awaitingKey := ⟨rfl, rfl, rfl⟩

theorem witness_DecodeInvertsEncode :
    WellFormed Params.standard (.ldVxVy 15 0) = true ∧ WellFormed noCopy (.jp 0xFFF) = true := by decide

/-- Both branches: a word whose x nibble is ignored, and one with none ignored. -/
theorem witness_DecodedWordIsTheEncoding :
    decodeWord noCopy 0x0FEE = .ok .ret ∧ decodeWord Params.standard 0xFF65 = .ok (.ldVxMem 15) := ⟨rfl, rfl⟩

/-- One word on each side of each of the six cases of R79. -/
theorem witness_UnknownWordsAreTheListed :
    ([0x00E1, 0x5FF1, 0x900F, 0x8008, 0x800F, 0xEF9F, 0xFF66] : List Word).all
      (fun w => (decodeWord Params.standard w).toOption.isNone) = true ∧
    (decodeWord noCopy 0x8FF0).toOption.isNone = true ∧
    ([0x00E0, 0x5FF0, 0x9000, 0x800E, 0x8FF0, 0xEF9E, 0xFF65] : List Word).all
      (fun w => (decodeWord Params.standard w).toOption.isSome) = true := by decide +kernel

/-- A word that matches its row, one that matches none, and one whose only row is not admitted. -/
theorem witness_UnknownExactlyWhenNoRowMatches :
    (opcodeRows.filter (fun r => r.matches 0x8120)).map (·.mnemonic) = ["LD_Vx__Vy"] ∧
    opcodeRows.filter (fun r => r.matches 0xFFFF) = [] ∧ (opcodeRow (.ldVxVy 1 2)).admitted noCopy = false := by decide +kernel

theorem witness_FetchSeesTheLatestStore :
    (placed 0xFFE []).storeBytes? 0xFFE [0x12, 0x34] ≠ none ∧ (placed 0xFFE []).pc.toNat = 0xFFE := by decide +kernel

theorem witness_PlacedWordRuns :
    (placed 0xFFE []).halted = none ∧ (placed 0xFFE []).mode = .running ∧ (placed 0xFFE []).pc.toNat ≤ 4094 ∧
    WellFormed (placed 0xFFE []).params (.ldVxVy 1 2) = true := by decide +kernel

/-- For each `Encodes` of the statements, a word of the pattern with its other bits all 1. -/
theorem witness_encodes :
    ([(0xF000, 0x1000, 0x1FFF), (0xF000, 0xB000, 0xBFFF), (0xF000, 0x2000, 0x2FFF), (0xF0FF, 0x00EE, 0x0FEE),
      (0xF000, 0x3000, 0x3FFF), (0xF000, 0x4000, 0x4FFF), (0xF00F, 0x5000, 0x5FF0), (0xF00F, 0x9000, 0x9FF0),
      (0xF000, 0x6000, 0x6FFF), (0xF000, 0x7000, 0x7FFF), (0xF00F, 0x8000, 0x8FF0), (0xF00F, 0x8001, 0x8FF1),
      (0xF00F, 0x8002, 0x8FF2), (0xF00F, 0x8003, 0x8FF3), (0xF00F, 0x8004, 0x8FF4), (0xF00F, 0x8005, 0x8FF5),
      (0xF00F, 0x8006, 0x8FF6), (0xF00F, 0x8007, 0x8FF7), (0xF00F, 0x800E, 0x8FFE), (0xF000, 0xC000, 0xCFFF),
      (0xF000, 0xA000, 0xAFFF), (0xF0FF, 0xF01E, 0xFF1E), (0xF0FF, 0xF029, 0xFF29), (0xF0FF, 0xF033, 0xFF33),
      (0xF0FF, 0xF055, 0xFF55), (0xF0FF, 0xF065, 0xFF65), (0xF0FF, 0x00E0, 0x0FE0), (0xF000, 0xD000, 0xDFFF),
      (0xF0FF, 0xE09E, 0xEF9E), (0xF0FF, 0xE0A1, 0xEFA1), (0xF0FF, 0xF00A, 0xFF0A), (0xF0FF, 0xF007, 0xFF07),
      (0xF0FF, 0xF015, 0xFF15), (0xF0FF, 0xF018, 0xFF18)] : List (Word × Word × Word)).all (fun m => m.2.2 &&& m.1 == m.2.1) = true := by
  decide +kernel

theorem witness_JumpSetsPc : State.reset.halted = none ∧ State.reset.mode = .running ∧ (0xFFF : Addr) = 0xFFF := by decide

theorem witness_CallPushesReturnAddress :
    (nested 0 0x200).sp.val < 16 ∧ (nested 15 0x200).sp.val < 16 ∧ (14 ≠ (nested 15 0x200).sp.val) := by decide

theorem witness_CallOnFullStackIsFatal : (nested 16 0x200).sp.val = 16 := by decide

theorem witness_ReturnPopsReturnAddress :
    0 < (nested 1 0x200).sp.val ∧ 0 < (nested 16 0x200).sp.val ∧ (nested 0 0x200).sp.val = 0 := by decide

theorem witness_ReturnUndoesCall :
    (nested 15 0x200).sp.val < 16 ∧
    ∃ t t' : State, exec (.call 0x300) (nested 15 0x200) = .next t ∧ t'.stack = t.stack ∧ t'.sp = t.sp ∧ t'.pc ≠ t.pc :=
  ⟨by decide, _, (nested 16 0x400).setStack ((Vector.replicate 16 0x20A).set 15 0x200) 16, rfl, rfl, rfl, by decide⟩

theorem witness_CallsNestSixteenDeep :
    (nested 0 0x200).sp.val = 0 ∧ (List.replicate 16 (0x300 : Addr)).length ≤ 16 ∧ (List.replicate 16 (0x300 : Addr)).length = 16 := by
  decide

theorem witness_RegisterSkipsCompareRegisters : opField 0x5121 = 0x5 ∧ opField 0x912F = 0x9 ∧ nField 0x912F ≠ 0 := by decide

/-- Each operation, each value of LOGIC_VF, and VF as a destination or not. -/
theorem witness_LogicOperationsAndVf :
    Params.standard.logicVf = .unchanged ∧ logicZero.logicVf = .zero ∧ (14 : Reg) ≠ vf ∧ (7 < 8) ∧
    (Instr.andVxVy 15 0 = .orVxVy 15 0 ∧ and = or ∨ Instr.andVxVy 15 0 = .andVxVy 15 0 ∧ and = and ∨
      Instr.andVxVy 15 0 = .xorVxVy 15 0 ∧ and = xor) := ⟨rfl, rfl, by decide, by decide, .inr (.inl ⟨rfl, rfl⟩)⟩

theorem witness_flag_writers : (14 : Reg) ≠ vf ∧ (0x00 : Byte).getLsbD 7 = false := by decide

theorem witness_BcdStoresThreeDigits :
    (sprite [] 0xFFD []).iReg.toNat + 2 < 4096 ∧ 4096 ≤ (sprite [] 0xFFE []).iReg.toNat + 2 ∧
    4096 ≤ (sprite [] 0xFFFF []).iReg.toNat + 2 := by decide +kernel

/-- The bounds of LD [I], Vx and of LD Vx, [I], which are the same. -/
theorem witness_bulk_transfers :
    (sprite [] 0xFF0 []).iReg.toNat + (15 : Reg).toNat < 4096 ∧ 4096 ≤ (sprite [] 0xFF1 []).iReg.toNat + (15 : Reg).toNat ∧
    4096 ≤ (sprite [] 0xFFFF []).iReg.toNat + (0 : Reg).toNat ∧ (0 : Reg).toNat ≤ (15 : Reg).toNat ∧
    (14 : Reg).toNat < (15 : Reg).toNat := by decide +kernel

theorem witness_BulkLoadRestoresBulkStore :
    (sprite [(0, 1)] 0xFFF []).iReg.toNat + (0 : Reg).toNat < 4096 ∧
    ∃ t, exec (.ldMemVx 0) (sprite [(0, 1)] 0xFFF []) = .next t ∧ (t.setReg 0 9).iReg = (sprite [(0, 1)] 0xFFF []).iReg ∧
      ∀ a, (t.setReg 0 9).memRead? a = t.memRead? a := ⟨by decide, _, rfl, rfl, fun _ => rfl⟩

theorem witness_PixelPortsWrapAndFlip : State.reset.halted = none ∧ dead.halted = some .stackOverflow ∧ 63 < 64 ∧ 31 < 32 := by
  decide

/-- A pixel the sprite covers (its row wrapped from 32 to 0), one it does not cover, a collision and none. -/
theorem witness_DrawFlipsTheCoveredPixels :
    let s := sprite [(0, 63), (1, 31)] 0x300 [0xC0, 0x80]
    spriteCovers s 63 31 2 63 0 ∧ ¬spriteCovers s 63 31 2 0 0 ∧
    (∃ px py, spriteCovers (s.flipPixel 0 31).1 63 31 2 px py ∧ (s.flipPixel 0 31).1.getPixel px py = true) ∧
    ¬∃ px py, spriteCovers s 63 31 0 px py ∧ s.getPixel px py = true := by
  refine ⟨⟨1, 0, 0x80, by decide, by decide, by decide +kernel, by decide, rfl, rfl⟩, ?_,
    ⟨0, 31, ⟨0, 1, 0xC0, by decide, by decide, by decide +kernel, by decide, rfl, rfl⟩, by decide +kernel⟩, ?_⟩
  · intro h
    obtain ⟨r, c, row, hr, hc, hm, hb, hx, hy⟩ := h
    have hr1 : r = 1 := by omega
    have hc1 : c = 1 := by omega
    subst hr1 hc1
    have hrow : (sprite [(0, 63), (1, 31)] 0x300 [0xC0, 0x80]).memRead? 0x301 = some 0x80 := by decide +kernel
    have hi : (sprite [(0, 63), (1, 31)] 0x300 [0xC0, 0x80]).iReg.toNat + 1 = 0x301 := by decide +kernel
    rw [hi, hrow] at hm
    cases hm
    exact absurd hb (by decide)
  · intro h
    obtain ⟨_, _, ⟨r, _, _, hr, _⟩, _⟩ := h
    omega

/-- The second draw with two other registers that hold the coordinates, since VF may be one of the first two. -/
theorem witness_DrawingTwiceRestoresTheScreen :
    ∃ t u, exec (.drwVxVyN 0 15 1) (sprite [(0, 3), (15, 4)] 0x300 [0x80]) = .next t ∧
      exec (.drwVxVyN 0 1 1) (t.setReg 1 4) = .next u ∧ (t.setReg 1 4).reg 0 = 3 ∧ (t.setReg 1 4).reg 1 = 4 ∧
      (t.setReg 1 4).iReg = 0x300 ∧ (∀ a, (t.setReg 1 4).memRead? a = (sprite [(0, 3), (15, 4)] 0x300 [0x80]).memRead? a) ∧
      (t.setReg 1 4).fb = t.fb ∧ t.getPixel 3 4 = true := ⟨_, _, rfl, rfl, rfl, rfl, rfl, fun _ => rfl, rfl, rfl⟩

theorem witness_KeySkipsTestTheLine :
    ((regs [(5, 15)]).reg 5).toNat = (15 : Reg).toNat ∧ 0xF < ((regs [(5, 16)]).reg 5).toNat ∧
    ((regs [(5, 15)]).setKey 15 true).key 15 = true := by decide +kernel

/-- A running session, and valid and invalid key indices where they meet. -/
theorem witness_host_key_operations :
    State.reset.halted = none ∧ State.reset.mode = .running ∧ waiting.halted = none ∧ waiting.mode = .awaitingKey ∧
    (15 : Reg).toNat = 0xF ∧ 0xF < 16 ∧ (14 : Reg) ≠ 15 := by decide

theorem witness_TicksCountDownToZero : (State.reset.setDT 1).halted = none := by decide

theorem witness_LoadCopiesTheImageOrFails :
    State.reset.halted = none ∧ (List.replicate 3584 (1 : Byte)).length ≤ 3584 ∧ 3584 < (List.replicate 3585 (1 : Byte)).length ∧
    (List.replicate 3584 (1 : Byte))[3583]? = some 1 :=
  ⟨rfl, by rw [List.length_replicate], by rw [List.length_replicate]; decide, by rw [List.getElem?_replicate]; rfl⟩

theorem witness_SoundReadAndClearDirty : State.reset.halted = none ∧ dead.halted = some .stackOverflow := ⟨rfl, rfl⟩

theorem witness_EndedSessionRefusesEveryOperation : dead.halted = some .stackOverflow := rfl

theorem witness_LiveSessionNeverStops : State.reset.halted = none := rfl

/-- For both frames over all instructions. -/
theorem witness_frames :
    (∃ t, exec (.ldVxMem 15) (sprite [] 0xFF0 []) = .next t) ∧ (∃ t, exec (.call 0x300) (nested 16 0x200) = .next t) ∧
    ∃ t, exec (.orVxVy 15 1) { State.reset with params := logicZero } = .next t := ⟨⟨_, rfl⟩, ⟨_, rfl⟩, ⟨_, rfl⟩⟩

/-- Each way a step changes pc, and the three ways it does not. -/
theorem witness_PcChangesOnlyInTheListedWays :
    (∃ t, step waiting = .next t) ∧ (∃ t, step (placed 0xFFF []) = .next t) ∧ (∃ t, step (placed 0xFFE [0x30, 0x00]) = .next t) ∧
    (∃ t, step (placed 0x200 [0xBF, 0xFF]) = .next t) ∧ ∃ t, step ((nested 1 0x200).writeBytes 0x200 [0x00, 0xEE]) = .next t :=
  ⟨⟨_, rfl⟩, ⟨_, rfl⟩, ⟨_, rfl⟩, ⟨_, rfl⟩, ⟨_, rfl⟩⟩

theorem witness_DiagnosticsAreAppendedOneAtATime :
    (∃ t, applyOp .step State.reset = .next t) ∧ (∃ t, applyOp (.keyRelease 16) waiting = .next t) ∧
    ∃ t, applyOp .step (placed 0xFFF []) = .next t := ⟨⟨_, rfl⟩, ⟨_, rfl⟩, ⟨_, rfl⟩⟩

/-- Each of the three fatal conditions. -/
theorem witness_FatalErrorsArePrecise :
    (∃ t, applyOp .step ((nested 16 0x208).writeBytes 0x208 [0x23, 0x00]) = .next t ∧ t.halted = some .stackOverflow) ∧
    (∃ t, applyOp .step (placed 0x300 [0x00, 0xEE]) = .next t ∧ t.halted = some .stackUnderflow) ∧
    ∃ t, applyOp .step (placed 0xFFF []) = .next t ∧ t.halted = some .fetchOutOfBounds :=
  ⟨⟨_, rfl, rfl⟩, ⟨_, rfl, rfl⟩, ⟨_, rfl, rfl⟩⟩

theorem witness_KeyWaitLastsUntilAValidPress :
    waiting.mode = .awaitingKey ∧ (∀ k, Op.keyPress k ∈ [Op.step, .tick, .keyRelease 2, .keyPress 16] → 0xF < k) ∧
    ∃ t, runOps [.step, .tick, .keyRelease 2, .keyPress 16] waiting = .next t := ⟨rfl, by simp, _, rfl⟩

/-- Both outcomes of a step. -/
theorem witness_StepIgnoresHostOnlyState :
    step dead = .fault (.sessionOver .stackOverflow) ∧ ∃ t, step State.reset = .next t := ⟨rfl, _, rfl⟩

theorem witness_StaleStackEntriesAreUnobservable :
    (∀ j, j < (nested 1 0x200).sp.val → ((Vector.replicate 16 (0x20A : Word)).set 1 7)[j]? = (nested 1 0x200).stack[j]?) ∧
    (∃ t, step (nested 1 0x200) = .next t) ∧ step dead = .fault (.sessionOver .stackOverflow) := ⟨by decide, ⟨_, rfl⟩, rfl⟩

/-- P5: the seventeenth call of a subroutine that calls itself ends the run, also if the host calls on; a session without it
ends by the host ceasing to call, or waiting. -/
theorem test_end_of_run :
    endOfRun [.step] ((nested 16 0x200).writeBytes 0x200 [0x22, 0x00]) = .next (.fatal .stackOverflow) ∧
    endOfRun [.step, .tick, .step] ((nested 16 0x200).writeBytes 0x200 [0x22, 0x00]) = .next (.fatal .stackOverflow) ∧
    endOfRun [.step] State.reset = .next .ceased ∧ endOfRun [.tick, .step] waiting = .next (.waiting 3) :=
  ⟨rfl, rfl, rfl, rfl⟩

/-- The ends that the clauses of RunsEndByFatalErrorOrTheHost speak of are met by the runs above; here the premise of its last. -/
theorem witness_RunsEndByFatalErrorOrTheHost : endOfRun [.tick] dead = .next (.fatal .stackOverflow) := rfl

/-- The loop at the end of P2, and the highest address a loop can stand at; and a wait. -/
theorem witness_SelfJumpAndKeyWaitEndNothing :
    (∀ s ∈ [placed 0x20A [0x12, 0x0A]], s.halted = none ∧ s.mode = .running ∧ s.fetched = .run (.jp 0x20A) ∧
      s.pc.toNat = (0x20A : Addr).toNat) ∧
    (∀ s ∈ [placed 0xFFE [0x1F, 0xFE]], s.halted = none ∧ s.mode = .running ∧ s.fetched = .run (.jp 0xFFE) ∧
      s.pc.toNat = (0xFFE : Addr).toNat) ∧
    waiting.halted = none ∧ waiting.mode = .awaitingKey := by
  refine ⟨?_, ?_, rfl, rfl⟩ <;> simp only [List.mem_singleton] <;> rintro s rfl <;> exact ⟨rfl, rfl, rfl, rfl⟩

end Sys2Proof.Tests
end

section
/-! SUPPORT. What each instruction does to the program counter (R26): the operations that keep it, the ways of the skips, the
jumps, the call and the return, and from them the ways of a step. -/

namespace Sys2Proof.Machine

variable {s t : State} {i : Instr} {x : Reg} {b f : Byte} {nnn : Addr}

/-! Operations that leave pc alone, and the skips. -/

@[simp] theorem State.setReg_pc : (s.setReg x b).pc = s.pc := rfl

@[simp] theorem State.setResultThenFlag_pc : (s.setResultThenFlag x b f).pc = s.pc := rfl

@[simp] theorem State.setLogicResult_pc : (s.setLogicResult x b).pc = s.pc := by
  obtain ⟨r, hr⟩ := State.setLogicResult_eq (s := s) (x := x) (b := b)
  rw [hr, State.setV_pc]

@[simp] theorem State.setRegsFrom_pc {j : Nat} {bs : List Byte} : (s.setRegsFrom j bs).pc = s.pc := by
  obtain ⟨r, hr⟩ := State.setRegsFrom_eq (s := s) (j := j) (bs := bs)
  rw [hr, State.setV_pc]

@[simp] theorem State.writeBytes_pc {a : Nat} {xs : List Byte} : (s.writeBytes a xs).pc = s.pc := by
  obtain ⟨m, hm⟩ := State.writeBytes_eq (s := s) (a := a) (xs := xs)
  rw [hm, State.setMem_pc]

@[simp] theorem State.storeOrReport_pc {a : Nat} {xs : List Byte} {d : Diag} : (s.storeOrReport a xs d).pc = s.pc := by
  rcases Nat.lt_or_ge 4096 (a + xs.length) with hout | hin
  · rw [State.storeOrReport_reports hout, State.report_pc]
  · rw [State.storeOrReport_stores hin, State.writeBytes_pc]

@[simp] theorem State.failFetch_pc : s.failFetch.pc = s.pc := rfl

@[simp] theorem State.advance_pc : s.advance.pc = s.pc + 2 := rfl

@[simp] theorem State.skipUnknown_pc {w : Word} : (s.skipUnknown w).pc = s.pc + 2 := rfl

theorem State.skipIf_pc_cases {c : Bool} : (s.skipIf c).pc = s.pc ∨ (s.skipIf c).pc = s.pc + 2 := by
  cases c with
  | false => exact .inl rfl
  | true => exact .inr rfl

theorem State.skipOnKey_pc_cases {c : Bool} :
    (s.skipOnKey i b c).pc = s.pc ∨ (s.skipOnKey i b c).pc = s.pc + 2 := by
  unfold State.skipOnKey
  split
  · exact State.skipIf_pc_cases
  · exact .inl rfl

/-! The targets of the jumps. -/

theorem zextAddr_toNat : (zextAddr nnn).toNat = nnn.toNat := by
  simp only [zextAddr, BitVec.toNat_setWidth]
  omega

/-- The sum of JP V0 never wraps: it is at most 0x10FE (R107, decision D21). -/
theorem zextByte_add_zextAddr_toNat : (zextByte b + zextAddr nnn).toNat = b.toNat + nnn.toNat := by
  have hb := b.isLt
  have ha := nnn.isLt
  simp only [zextByte, BitVec.toNat_add, BitVec.toNat_setWidth, zextAddr_toNat]
  omega

/-! The instructions. -/

/-- The instructions that name pc among what they write are the skips, the jumps, CALL and RET (R26). -/
theorem pc_mem_piecesWritten :
    .pc ∈ piecesWritten i ↔
      isSkip i = true ∨ i = .ret ∨ (∃ nnn, i = .jp nnn) ∨ (∃ nnn, i = .call nnn) ∨ ∃ nnn, i = .jpV0Nnn nnn := by
  cases i <;> simp [piecesWritten, isSkip]

/-- Every instruction that does not name pc among what it writes leaves it as the fetch put it. -/
theorem exec_pc_of_not_written (hi : .pc ∉ piecesWritten i) (h : exec i s = .next t) : t.pc = s.pc := by
  cases i with
  | ret | jp | call | jpV0Nnn | seVxKk | sneVxKk | seVxVy | sneVxVy | skpVx | sknpVx => simp [piecesWritten] at hi
  | ldVxMem x =>
    simp only [exec, execLdVxMem, Host.Outcome.next.injEq] at h
    subst h
    split
    · exact State.setRegsFrom_pc
    · rfl
  | _ => cases h; simp

/-- A skip leaves pc as the fetch put it or moves it 2 further (R103 to R106, R190 to R192). -/
theorem exec_skip_pc_cases (hi : isSkip i = true) (h : exec i s = .next t) : t.pc = s.pc ∨ t.pc = s.pc + 2 := by
  cases i with
  | seVxKk | sneVxKk | seVxVy | sneVxVy => cases h; exact State.skipIf_pc_cases
  | skpVx | sknpVx => cases h; exact State.skipOnKey_pc_cases
  | _ => simp [isSkip] at hi

/-- RET takes the popped entry, or leaves pc when the stack is empty (R100). -/
theorem exec_ret_pc_cases (h : exec .ret s = .next t) :
    t.pc = s.pc ∨ (0 < s.sp.val ∧ s.stack[s.sp.val - 1]? = some t.pc) := by
  simp only [exec, execRet, Host.Outcome.next.injEq] at h
  subst h
  rcases Nat.eq_zero_or_pos s.sp.val with hsp | hsp
  · simp [State.pop?_none hsp]
  · obtain ⟨a, n, hpop, htop, -⟩ := State.pop?_some hsp
    simp [hpop, htop, hsp]

/-- CALL goes to its operand, or leaves pc when the stack is full (R102). -/
theorem exec_call_pc_cases (h : exec (.call nnn) s = .next t) : t.pc = s.pc ∨ t.pc.toNat = nnn.toNat := by
  simp only [exec, execCall, Host.Outcome.next.injEq] at h
  subst h
  split
  · exact .inr zextAddr_toNat
  · exact .inl rfl

/-- The ways an instruction leaves pc, which the fetch has already moved 2 further (R26, R71). -/
theorem exec_pc_cases (h : exec i s = .next t) :
    t.pc = s.pc ∨
      (isSkip i = true ∧ t.pc = s.pc + 2) ∨
      (∃ nnn : Addr, (i = .jp nnn ∨ i = .call nnn) ∧ t.pc.toNat = nnn.toNat) ∨
      (i = .ret ∧ 0 < s.sp.val ∧ s.stack[s.sp.val - 1]? = some t.pc) ∨
      (∃ nnn : Addr, i = .jpV0Nnn nnn ∧ t.pc.toNat = (s.reg 0).toNat + nnn.toNat) := by
  by_cases hw : .pc ∈ piecesWritten i
  · rcases pc_mem_piecesWritten.1 hw with hskip | rfl | ⟨nnn, rfl⟩ | ⟨nnn, rfl⟩ | ⟨nnn, rfl⟩
    · exact (exec_skip_pc_cases hskip h).imp_right fun hpc => .inl ⟨hskip, hpc⟩
    · exact (exec_ret_pc_cases h).imp_right fun hpop => .inr (.inr (.inl ⟨rfl, hpop⟩))
    · cases h
      exact .inr (.inr (.inl ⟨nnn, .inl rfl, zextAddr_toNat⟩))
    · exact (exec_call_pc_cases h).imp_right fun hpc => .inr (.inl ⟨nnn, .inr rfl, hpc⟩)
    · cases h
      exact .inr (.inr (.inr (.inr ⟨nnn, rfl, zextByte_add_zextAddr_toNat⟩)))
  · exact .inl (exec_pc_of_not_written hw h)

/-- Settles O53: a step is a wait, a failed fetch, an unknown word or an instruction, and an instruction starts from the
advanced pc, whose registers and stack are those before the step. -/
theorem pcChangesOnlyInTheListedWays : Obligations.PcChangesOnlyInTheListedWays := by
  unfold Obligations.PcChangesOnlyInTheListedWays
  intro s t h
  obtain ⟨-, ⟨hm, rfl⟩ | ⟨hm, hpc, rfl⟩ | ⟨hm, hpc, w, hw, ⟨_, _, _, rfl⟩ | ⟨i, hd, _, hexec⟩⟩⟩ := step_cases h
  · exact .inl ⟨hm, rfl⟩
  · exact .inr (.inl ⟨hm, hpc, State.failFetch_pc⟩)
  · exact .inr (.inr ⟨hm, hpc, .inl State.skipUnknown_pc⟩)
  · exact .inr (.inr ⟨hm, hpc, (exec_pc_cases hexec).imp_right fun hway => ⟨i, w, hw, hd, hway⟩⟩)

end Sys2Proof.Machine
end

section
/-! SUPPORT. What a step of a running session answers, one equation per finding of the fetch (R70, R71, R79). -/

namespace Sys2Proof.Machine

variable {s : State} {k : FatalKind} {w : Word} {i : Instr} {why : UnknownWord}

/-- A fatal error writes only halted (R210). -/
theorem State.raiseFatal_sameBut : sameBut [.halted] s (s.raiseFatal k) := by
  intro p hp
  cases p with
  | halted => simp at hp
  | mem | v | keys => exact fun _ => rfl
  | fb => exact fun _ _ => rfl
  | _ => rfl

theorem step_outOfBounds (h : s.halted = none) (hm : s.mode = .running) (hp : 4094 < s.pc.toNat) :
    step s = .next s.failFetch := by
  simp only [step, State.fetched_outOfBounds h hm hp]

theorem step_run (h : s.halted = none) (hm : s.mode = .running) (hw : s.fetch16? = some w)
    (hd : decodeWord s.params w = .ok i) : step s = exec i s.advance := by
  simp only [step, State.fetched_run h hm hw hd]

theorem step_unknown (h : s.halted = none) (hm : s.mode = .running) (hw : s.fetch16? = some w)
    (hd : decodeWord s.params w = .error why) : step s = .next (s.skipUnknown w) := by
  simp only [step, State.fetched_unknown h hm hw hd]

/-- Settles O6: past 4094 the fetch fails and only halted is written; up to 4094 the fetched word is that of the two bytes
at pc, and pc is advanced whether or not the word decodes. -/
theorem fetchIsBigEndianAndBounded : Obligations.FetchIsBigEndianAndBounded := by
  unfold Obligations.FetchIsBigEndianAndBounded
  intro s hh hm
  constructor
  · intro hpc
    exact ⟨s.failFetch, step_outOfBounds hh hm hpc, rfl, State.raiseFatal_sameBut⟩
  · intro hpc
    obtain ⟨hi, lo, hhi, hlo, hw⟩ := State.fetch16?_some hpc
    refine ⟨hi, lo, wordOfBytes hi lo, hhi, hlo, wordOfBytes_toNat hi lo, fun i hd => step_run hh hm hw hd,
      fun hunknown => ?_⟩
    cases hd : decodeWord s.params (wordOfBytes hi lo) with
    | ok i => exact absurd hd (hunknown i)
    | error why => exact ⟨s.skipUnknown _, step_unknown hh hm hw hd, State.skipUnknown_pc⟩

end Sys2Proof.Machine
end

section
/-! SUPPORT. What the decoder makes of the families of RET, JP and the skips on two registers (R77, R79). -/

namespace Sys2Proof

variable {p : Params} {w : Word} {i : Instr}

theorem decodeWord_system (h : opField w = 0x0) : decodeWord p w = decodeSystem (kkField w) := by
  simp [decodeWord, h]

theorem decodeWord_jump (h : opField w = 0x1) : decodeWord p w = .ok (.jp (nnnField w)) := by
  simp [decodeWord, h]

theorem decodeWord_skipEqual (h : opField w = 0x5) :
    decodeWord p w = decodeRegisterSkip (.seVxVy (xField w) (yField w)) (nField w) := by
  simp [decodeWord, h]

theorem decodeWord_skipUnequal (h : opField w = 0x9) :
    decodeWord p w = decodeRegisterSkip (.sneVxVy (xField w) (yField w)) (nField w) := by
  simp [decodeWord, h]

theorem decodeRegisterSkip_zero : decodeRegisterSkip i 0 = .ok i := rfl

theorem decodeRegisterSkip_of_ne_zero {n : Nibble} (h : n ≠ 0) :
    decodeRegisterSkip i n = .error .registerSkipNibble := if_neg h

/-- In the two families of R105 and R106 a low nibble other than 0 makes the word unknown (R79). -/
theorem decodeWord_of_registerSkip_nibble (h : opField w = 0x5 ∨ opField w = 0x9) (hn : nField w ≠ 0) :
    decodeWord p w = .error .registerSkipNibble := by
  rcases h with h | h
  · rw [decodeWord_skipEqual h, decodeRegisterSkip_of_ne_zero hn]
  · rw [decodeWord_skipUnequal h, decodeRegisterSkip_of_ne_zero hn]

end Sys2Proof
end

section
/-! SUPPORT. Control flow: the frames of the operations RET, JP and the skips are made of, and what these instructions do
(R100, R101, R105, R106). -/

namespace Sys2Proof.Machine

variable {s t u : State} {ps : List Piece} {nnn : Addr}

/-! Frames. -/

theorem State.agree_trans {p : Piece} (h : s.agree t p) (h' : t.agree u p) : s.agree u p := by
  cases p with
  | mem | v | keys => exact fun a => (h' a).trans (h a)
  | fb => exact fun px py => (h' px py).trans (h px py)
  | _ => exact Eq.trans h' h

theorem sameBut_trans (h : sameBut ps s t) (h' : sameBut ps t u) : sameBut ps s u :=
  fun p hp => State.agree_trans (h p hp) (h' p hp)

theorem State.setPc_sameBut {a : Word} (h : .pc ∈ ps) : sameBut ps s (s.setPc a) := by
  intro p hp
  cases p with
  | pc => exact absurd h hp
  | mem | v | keys => exact fun _ => rfl
  | fb => exact fun _ _ => rfl
  | _ => rfl

/-- A pop moves sp and leaves the entries as they are (R30, decision D12). -/
theorem State.setStack_same_sameBut {n : Fin 17} (h : .sp ∈ ps) : sameBut ps s (s.setStack s.stack n) := by
  intro p hp
  cases p with
  | sp => exact absurd h hp
  | mem | v | keys => exact fun _ => rfl
  | fb => exact fun _ _ => rfl
  | _ => rfl

theorem State.skipIf_pc {c : Bool} : (s.skipIf c).pc = if c then s.pc + 2 else s.pc := by
  rw [State.skipIf_eq, State.setPc_pc]

theorem State.skipIf_sameBut {c : Bool} : sameBut [.pc] s (s.skipIf c) := by
  rw [State.skipIf_eq]
  exact State.setPc_sameBut List.mem_cons_self

/-! RET (R100). -/

theorem exec_ret_of_pos (h : 0 < s.sp.val) :
    ∃ a n, exec .ret s = .next ((s.setStack s.stack n).setPc a) ∧ s.stack[s.sp.val - 1]? = some a ∧ n.val + 1 = s.sp.val := by
  obtain ⟨a, n, hpop, htop, hn⟩ := State.pop?_some h
  exact ⟨a, n, by simp only [exec, execRet, hpop], htop, hn⟩

theorem exec_ret_of_empty (h : s.sp.val = 0) : exec .ret s = .next (s.raiseFatal .stackUnderflow) := by
  simp only [exec, execRet, State.pop?_none h]

/-- Settles O20: the word's family and low byte are those of 0x00EE; with an entry in use RET is a pop and a jump to the
popped address, and without one it writes only halted. -/
theorem returnPopsReturnAddress : Obligations.ReturnPopsReturnAddress := by
  unfold Obligations.ReturnPopsReturnAddress
  refine ⟨fun p w hw => ?_, fun s => ⟨fun hsp => ?_, fun hsp => ?_⟩⟩
  · obtain ⟨hop, hkk⟩ := fields_of_mask_kk hw
    rw [decodeWord_system hop, hkk]
    rfl
  · obtain ⟨a, n, hexec, htop, hn⟩ := exec_ret_of_pos hsp
    exact ⟨_, hexec, htop, hn, sameBut_trans (State.setStack_same_sameBut (by simp)) (State.setPc_sameBut (by simp))⟩
  · exact ⟨_, exec_ret_of_empty hsp, rfl, State.raiseFatal_sameBut⟩

/-! SE and SNE on two registers (R105, R106). -/

/-- Settles O24: the decoder of the two families admits the low nibble 0 alone, and each skip writes only pc. -/
theorem registerSkipsCompareRegisters : Obligations.RegisterSkipsCompareRegisters := by
  unfold Obligations.RegisterSkipsCompareRegisters
  refine ⟨fun p w hw => ?_, fun p w hw => ?_, fun p w hop hn i => ?_, fun x y s => ⟨?_, ?_⟩⟩
  · obtain ⟨hop, hn⟩ := fields_of_mask_n hw
    rw [decodeWord_skipEqual hop, hn]
    exact decodeRegisterSkip_zero
  · obtain ⟨hop, hn⟩ := fields_of_mask_n hw
    rw [decodeWord_skipUnequal hop, hn]
    exact decodeRegisterSkip_zero
  · simp [decodeWord_of_registerSkip_nibble hop hn]
  · exact ⟨s.skipIf (s.reg x == s.reg y), rfl, by simp [State.skipIf_pc], State.skipIf_sameBut⟩
  · exact ⟨s.skipIf (s.reg x != s.reg y), rfl, by simp [State.skipIf_pc], State.skipIf_sameBut⟩

/-! JP (R101). -/

/-- A jump to 0xFFF leaves fewer than two bytes to fetch (R71). -/
theorem zextAddr_last_out_of_bounds : 4094 < (zextAddr 0xFFF).toNat := by decide

/-- Settles O16: a jump writes only pc, and the fetch at 0xFFF is out of bounds, which writes only halted. -/
theorem jumpSetsPc : Obligations.JumpSetsPc := by
  unfold Obligations.JumpSetsPc
  refine ⟨fun p w hw => decodeWord_jump (opField_of_mask hw), fun nnn s => ?_⟩
  refine ⟨s.setPc (zextAddr nnn), rfl, zextAddr_toNat, State.setPc_sameBut (by simp), ?_⟩
  rintro rfl hh hm
  exact ⟨_, step_outOfBounds hh hm zextAddr_last_out_of_bounds, rfl, State.raiseFatal_sameBut⟩

end Sys2Proof.Machine
end

section
/-! SUPPORT. What the decoder makes of the families of LD and ADD with an immediate and of the 8xyN family (R77, R78). -/

namespace Sys2Proof

variable {p : Params} {w c : Word}

theorem decodeWord_loadImmediate (h : opField w = 0x6) : decodeWord p w = .ok (.ldVxKk (xField w) (kkField w)) := by
  simp [decodeWord, h]

theorem decodeWord_addImmediate (h : opField w = 0x7) : decodeWord p w = .ok (.addVxKk (xField w) (kkField w)) := by
  simp [decodeWord, h]

theorem decodeWord_alu (h : opField w = 0x8) : decodeWord p w = decodeAlu p (xField w) (yField w) (nField w) := by
  simp [decodeWord, h]

/-- A word of the 8xyN family decodes by the low nibble of its pattern. -/
theorem decodeWord_of_alu_mask (h : w &&& 0xF00F = c) (hc : opField c = 0x8) :
    decodeWord p w = decodeAlu p (xField w) (yField w) (nField c) := by
  obtain ⟨hop, hn⟩ := fields_of_mask_n h
  rw [decodeWord_alu (hop.trans hc), hn]

end Sys2Proof
end

section
/-! SUPPORT. Arithmetic on the registers: the frames of the register writes, the bytes and flags as numbers, and what LD and
ADD with an immediate, ADD, SUB, SUBN, SHR and SHL do (R120, R121, R128 to R132). -/

namespace Sys2Proof.Machine

variable {s : State} {x y : Reg} {b f p q : Byte} {c : Prop} {ps : List Piece}

/-! Frames. -/

theorem State.setV_sameBut {r : Vector Byte 16} (h : .v ∈ ps) : sameBut ps s (s.setV r) := by
  intro p hp
  cases p with
  | v => exact absurd h hp
  | mem | keys => exact fun _ => rfl
  | fb => exact fun _ _ => rfl
  | _ => rfl

theorem State.setReg_sameBut (h : .v ∈ ps) : sameBut ps s (s.setReg x b) := State.setV_sameBut h

theorem State.setReg_regsBut : regsBut [x] s (s.setReg x b) := by
  intro z hz
  rw [State.reg_setReg, if_neg (List.ne_of_not_mem_cons hz)]

theorem State.setResultThenFlag_sameBut (h : .v ∈ ps) : sameBut ps s (s.setResultThenFlag x b f) := by
  obtain ⟨r, hr⟩ := State.setResultThenFlag_eq (s := s) (x := x) (b := b) (c := f)
  rw [hr]
  exact State.setV_sameBut h

theorem State.setResultThenFlag_regsBut : regsBut [x, vf] s (s.setResultThenFlag x b f) := by
  intro z hz
  simp only [List.mem_cons, List.not_mem_nil, or_false, not_or] at hz
  obtain ⟨hzx, hzf⟩ := hz
  rw [State.reg_setResultThenFlag, if_neg hzf, if_neg hzx]

/-! The registers written. -/

theorem State.reg_setReg_same : (s.setReg x b).reg x = b := by
  rw [State.reg_setReg, if_pos rfl]

/-- The result stays in V[x], unless the flag is written over it (R123). -/
theorem State.reg_setResultThenFlag_result (h : x ≠ vf) : (s.setResultThenFlag x b f).reg x = b := by
  rw [State.reg_setResultThenFlag, if_neg h, if_pos rfl]

/-- The flag stays in VF, also where VF is the destination (R123). -/
theorem State.reg_setResultThenFlag_vf : (s.setResultThenFlag x b f).reg vf = f := by
  rw [State.reg_setResultThenFlag, if_pos rfl]

/-! The flags and the shifted bytes as numbers. -/

theorem b2u_decide [Decidable c] : b2u (decide c) = if c then 1 else 0 := by
  by_cases h : c <;> simp [b2u, h]

theorem carryFlag_eq : carryFlag p q = if p.toNat + q.toNat > 255 then 1 else 0 := b2u_decide

theorem noBorrowFlag_eq : noBorrowFlag p q = if p.toNat ≥ q.toNat then 1 else 0 := b2u_decide

theorem shrFlag_toNat : (shrFlag p).toNat = p.toNat % 2 := by
  rw [shrFlag, BitVec.toNat_and]
  exact Nat.and_one_is_mod _

theorem shlFlag_toNat : (shlFlag p).toNat = p.toNat / 128 := by
  rw [shlFlag, BitVec.toNat_ushiftRight, Nat.shiftRight_eq_div_pow]

theorem byte_sub_toNat : (p - q).toNat = (p.toNat + 256 - q.toNat) % 256 := by
  have hq := q.isLt
  rw [BitVec.toNat_sub]
  omega

theorem byte_shiftRight_one_toNat : (p >>> 1).toNat = p.toNat / 2 := by
  rw [BitVec.toNat_ushiftRight, Nat.shiftRight_eq_div_pow, pow_one]

theorem byte_shiftLeft_one_toNat : (p <<< 1).toNat = p.toNat * 2 % 256 := by
  rw [BitVec.toNat_shiftLeft, Nat.shiftLeft_eq, pow_one]

/-! The instructions. -/

/-- Settles O25: each of the two is one register write, with no write of VF after it. -/
theorem immediateLoadAndAdd : Obligations.ImmediateLoadAndAdd := by
  unfold Obligations.ImmediateLoadAndAdd
  refine ⟨fun p w hw => decodeWord_loadImmediate (opField_of_mask hw),
    fun p w hw => decodeWord_addImmediate (opField_of_mask hw), fun x kk s => ⟨?_, ?_⟩⟩
  · exact ⟨s.setReg x kk, rfl, State.reg_setReg_same, State.setReg_regsBut, State.setReg_sameBut (by simp)⟩
  · refine ⟨s.setReg x (s.reg x + kk), rfl, ?_, State.setReg_regsBut, State.setReg_sameBut (by simp)⟩
    rw [State.reg_setReg_same, BitVec.toNat_add]

/-- What the five flagged forms have in common: a result and a flag computed from the state before are written, result
first, and read back as such (R123). -/
theorem exec_flagged {i : Instr} (h : exec i s = .next (s.setResultThenFlag x b f)) :
    ∃ t, exec i s = .next t ∧ (x ≠ vf → t.reg x = b) ∧ t.reg vf = f ∧ regsBut [x, vf] s t ∧ sameBut [.v] s t :=
  ⟨_, h, State.reg_setResultThenFlag_result, State.reg_setResultThenFlag_vf, State.setResultThenFlag_regsBut,
    State.setResultThenFlag_sameBut (by simp)⟩

/-- Settles O28: the sum and the carry are both of the old operands, and the carry is written last. -/
theorem addSetsCarry : Obligations.AddSetsCarry := by
  unfold Obligations.AddSetsCarry
  refine ⟨fun p w hw => decodeWord_of_alu_mask hw rfl, fun x y s => ?_⟩
  obtain ⟨t, hexec, hx, hvf, hframe⟩ := exec_flagged (i := .addVxVy x y) (s := s) rfl
  refine ⟨t, hexec, fun hne => ?_, hvf.trans carryFlag_eq, hframe⟩
  rw [hx hne, BitVec.toNat_add]

/-- Settles O29: SUBN is SUB with the operands exchanged, in the difference and in the flag. -/
theorem subtractSetsNoBorrow : Obligations.SubtractSetsNoBorrow := by
  unfold Obligations.SubtractSetsNoBorrow
  refine ⟨fun p w hw => decodeWord_of_alu_mask hw rfl, fun p w hw => decodeWord_of_alu_mask hw rfl,
    fun x y s => ⟨?_, ?_⟩⟩
  · obtain ⟨t, hexec, hx, hvf, hframe⟩ := exec_flagged (i := .subVxVy x y) (s := s) rfl
    refine ⟨t, hexec, fun hne => ?_, hvf.trans noBorrowFlag_eq, hframe⟩
    rw [hx hne, byte_sub_toNat]
  · obtain ⟨t, hexec, hx, hvf, hframe⟩ := exec_flagged (i := .subnVxVy x y) (s := s) rfl
    refine ⟨t, hexec, fun hne => ?_, hvf.trans noBorrowFlag_eq, hframe⟩
    rw [hx hne, byte_sub_toNat]

/-- Settles O30: result and flag are read off V[x] alone, whichever y the word names. -/
theorem shiftsMoveTheBitIntoVf : Obligations.ShiftsMoveTheBitIntoVf := by
  unfold Obligations.ShiftsMoveTheBitIntoVf
  refine ⟨fun p w hw => decodeWord_of_alu_mask hw rfl, fun p w hw => decodeWord_of_alu_mask hw rfl,
    fun x y s => ⟨?_, ?_⟩⟩
  · obtain ⟨t, hexec, hx, hvf, hframe⟩ := exec_flagged (i := .shrVx x y) (s := s) rfl
    refine ⟨t, hexec, fun hne => ?_, ?_, hframe⟩
    · rw [hx hne, byte_shiftRight_one_toNat]
    · rw [hvf, shrFlag_toNat]
  · obtain ⟨t, hexec, hx, hvf, hframe⟩ := exec_flagged (i := .shlVx x y) (s := s) rfl
    refine ⟨t, hexec, fun hne => ?_, ?_, hframe⟩
    · rw [hx hne, byte_shiftLeft_one_toNat]
    · rw [hvf, shlFlag_toNat]

end Sys2Proof.Machine
end

section
/-! SUPPORT. What the decoder makes of the families of LD I and of the Fxkk words (R77, R78). -/

namespace Sys2Proof

variable {p : Params} {w c : Word}

theorem decodeWord_loadIndex (h : opField w = 0xA) : decodeWord p w = .ok (.ldINnn (nnnField w)) := by
  simp [decodeWord, h]

theorem decodeWord_misc (h : opField w = 0xF) : decodeWord p w = decodeMisc (xField w) (kkField w) := by
  simp [decodeWord, h]

/-- A word of the Fxkk family decodes by the low byte of its pattern. -/
theorem decodeWord_of_misc_mask (h : w &&& 0xF0FF = c) (hc : opField c = 0xF) :
    decodeWord p w = decodeMisc (xField w) (kkField c) := by
  obtain ⟨hop, hkk⟩ := fields_of_mask_kk h
  rw [decodeWord_misc (hop.trans hc), hkk]

end Sys2Proof
end

section
/-! SUPPORT. The index register: its frame, the operands written to it as numbers, and what LD I, ADD I and LD F do (R150 to
R152). -/

namespace Sys2Proof.Machine

variable {s : State} {a : Word} {b : Byte} {ps : List Piece} {i : Instr} {n : Nat}

theorem State.setI_sameBut (h : .iReg ∈ ps) : sameBut ps s (s.setI a) := by
  intro p hp
  cases p with
  | iReg => exact absurd h hp
  | mem | v | keys => exact fun _ => rfl
  | fb => exact fun _ _ => rfl
  | _ => rfl

/-- A 16-bit sum wraps at 65536, and a byte enters it as its own value (R151). -/
theorem add_zextByte_toNat : (a + zextByte b).toNat = (a.toNat + b.toNat) % 65536 := by
  rw [BitVec.toNat_add, zextByte, BitVec.toNat_setWidth_of_le (by decide)]

/-- The last glyph starts at 0x09B, far below the wrap of a word. -/
theorem glyphAddr_toNat : (glyphAddr b).toNat = 0x050 + 5 * (b.toNat % 16) := by
  rw [glyphAddr, BitVec.toNat_ofNat, Config.glyphBase, Config.glyphSize]
  omega

/-- What the three forms have in common: one write of I. -/
theorem exec_setI (h : exec i s = .next (s.setI a)) (hn : a.toNat = n) :
    ∃ t, exec i s = .next t ∧ t.iReg.toNat = n ∧ sameBut [.iReg] s t :=
  ⟨_, h, hn, State.setI_sameBut (by simp)⟩

/-- Settles O32: each of the three is one write of I, with the operand zero-extended, summed as words, or read as a glyph. -/
theorem indexRegisterWrites : Obligations.IndexRegisterWrites := by
  unfold Obligations.IndexRegisterWrites
  refine ⟨fun p w hw => decodeWord_loadIndex (opField_of_mask hw), fun p w hw => decodeWord_of_misc_mask hw rfl,
    fun p w hw => decodeWord_of_misc_mask hw rfl, fun nnn s => ?_, fun x s => ⟨?_, ?_⟩⟩
  · exact exec_setI rfl zextAddr_toNat
  · exact exec_setI rfl add_zextByte_toNat
  · exact exec_setI rfl glyphAddr_toNat

end Sys2Proof.Machine
end

section
/-! SUPPORT. What the decoder makes of the system family (R77, R78). -/

namespace Sys2Proof

variable {p : Params} {w c : Word}

/-- A word of the system family decodes by the low byte of its pattern; the x nibble takes no part (decision D4). -/
theorem decodeWord_of_system_mask (h : w &&& 0xF0FF = c) (hc : opField c = 0x0) :
    decodeWord p w = decodeSystem (kkField c) := by
  obtain ⟨hop, hkk⟩ := fields_of_mask_kk h
  rw [decodeWord_system (hop.trans hc), hkk]

end Sys2Proof
end

section
/-! SUPPORT. The display: the frames of the framebuffer and dirty writes, the dark framebuffer, and what CLS does (R170). -/

namespace Sys2Proof.Machine

variable {s : State} {ps : List Piece}

theorem State.setFb_sameBut {f : Framebuffer} (h : .fb ∈ ps) : sameBut ps s (s.setFb f) := by
  intro p hp
  cases p with
  | fb => exact absurd h hp
  | mem | v | keys => exact fun _ => rfl
  | _ => rfl

theorem State.setDirty_sameBut {d : Bool} (h : .dirty ∈ ps) : sameBut ps s (s.setDirty d) := by
  intro p hp
  cases p with
  | dirty => exact absurd h hp
  | mem | v | keys => exact fun _ => rfl
  | fb => exact fun _ _ => rfl
  | _ => rfl

/-- Every pixel of the framebuffer CLS writes is off, also at coordinates that wrap. -/
theorem fbGet_dark {px py : Nat} : fbGet (Vector.replicate 64 (Vector.replicate 32 false)) px py = false := by
  rw [fbGet, Vector.getElem_replicate, Vector.getElem_replicate]

/-- Settles O37: CLS is a write of the dark framebuffer and then one of the dirty flag, neither of which depends on what was
on the screen. -/
theorem clearDarkensEveryPixel : Obligations.ClearDarkensEveryPixel := by
  unfold Obligations.ClearDarkensEveryPixel
  refine ⟨fun p w hw => decodeWord_of_system_mask hw rfl, fun s => ?_⟩
  exact ⟨_, rfl, fun px py => fbGet_dark, State.setDirty_dirty _ true,
    sameBut_trans (State.setFb_sameBut (by simp)) (State.setDirty_sameBut (by simp))⟩

end Sys2Proof.Machine
end

section
/-! SUPPORT. The timers: the frames of their writes, the sound output, and what the three transfers between a register and a
timer do (R193, R195, R196). -/

namespace Sys2Proof.Machine

variable {s : State} {b : Byte} {ps : List Piece}

theorem State.setDT_sameBut (h : .dt ∈ ps) : sameBut ps s (s.setDT b) := by
  intro p hp
  cases p with
  | dt => exact absurd h hp
  | mem | v | keys => exact fun _ => rfl
  | fb => exact fun _ _ => rfl
  | _ => rfl

theorem State.setST_sameBut (h : .st ∈ ps) : sameBut ps s (s.setST b) := by
  intro p hp
  cases p with
  | st => exact absurd h hp
  | mem | v | keys => exact fun _ => rfl
  | fb => exact fun _ _ => rfl
  | _ => rfl

/-- The tone is due exactly while ST is above 0 (R231). -/
theorem soundActive_iff : soundActive s = true ↔ 0 < s.st.toNat := decide_eq_true_iff

/-- Settles O43: each of the three is one write, of a register or of a timer, and the tone is read off the ST just written. -/
theorem timerTransfers : Obligations.TimerTransfers := by
  unfold Obligations.TimerTransfers
  refine ⟨fun p w hw => decodeWord_of_misc_mask hw rfl, fun p w hw => decodeWord_of_misc_mask hw rfl,
    fun p w hw => decodeWord_of_misc_mask hw rfl, fun x s => ⟨?_, ?_, ?_⟩⟩
  · exact ⟨s.setReg x s.dt, rfl, State.reg_setReg_same, State.setReg_regsBut, State.setReg_sameBut (by simp)⟩
  · exact ⟨s.setDT (s.reg x), rfl, State.setDT_dt _ _, State.setDT_sameBut (by simp)⟩
  · refine ⟨s.setST (s.reg x), rfl, State.setST_st _ _, ?_, State.setST_sameBut (by simp)⟩
    rw [soundActive_iff, State.setST_st]

end Sys2Proof.Machine
end

section
/-! SUPPORT. What the operations answer: a next state while the session has not ended, and a refusal after a fatal error
(R211, R214). -/

namespace Sys2Proof.Machine

variable {s : State} {k : FatalKind} {i : Instr} {o : Op}

/-- The meaning of every instruction is a next state: RET and CALL on a bad stack raise a fatal error in it, and the forms that
check a range or a key index report in it. -/
theorem exec_answers_next : ∃ t, exec i s = .next t := by
  cases i with
  | _ => exact ⟨_, rfl⟩

/-- While a key is awaited a step changes nothing (R70). -/
theorem step_waiting (h : s.halted = none) (hm : s.mode = .awaitingKey) : step s = .next s := by
  simp only [step, State.fetched_waiting h hm]

/-- The step of a session that has not ended is a wait, a failed fetch, an unknown word or an instruction, and each of the four
answers a next state (R216). -/
theorem step_answers_next (h : s.halted = none) : ∃ t, step s = .next t := by
  cases hm : s.mode with
  | awaitingKey => exact ⟨s, step_waiting h hm⟩
  | running =>
    rcases Nat.lt_or_ge 4094 s.pc.toNat with hout | hin
    · exact ⟨s.failFetch, step_outOfBounds h hm hout⟩
    · obtain ⟨hi, lo, -, -, hw⟩ := State.fetch16?_some hin
      cases hd : decodeWord s.params (wordOfBytes hi lo) with
      | error why => exact ⟨_, step_unknown h hm hw hd⟩
      | ok i =>
        rw [step_run h hm hw hd]
        exact exec_answers_next

theorem stateOf_unlessHalted {α : Type} {r : State × α} : stateOf (s.unlessHalted r) = s.unlessHalted r.1 := by
  cases h : s.halted with
  | none => simp only [unlessHalted_none h, stateOf]
  | some k => simp only [unlessHalted_some h, stateOf]

/-- Every operation but step is guarded by halted alone. -/
theorem applyOp_eq_unlessHalted (h : o ≠ .step) : ∃ t, applyOp o s = s.unlessHalted t := by
  cases o with
  | step => exact absurd rfl h
  | tick | keyPress | keyRelease | clearDirty => exact ⟨_, rfl⟩
  | load | loadUnreadable | setPixel => exact ⟨_, stateOf_unlessHalted⟩

theorem applyOp_of_live (h : s.halted = none) : ∃ t, applyOp o s = .next t := by
  by_cases ho : o = .step
  · subst ho
    exact step_answers_next h
  · obtain ⟨t, ht⟩ := applyOp_eq_unlessHalted (s := s) ho
    exact ⟨t, ht.trans (unlessHalted_none h)⟩

theorem applyOp_of_halted (h : s.halted = some k) : applyOp o s = .fault (.sessionOver k) := by
  by_cases ho : o = .step
  · subst ho
    simp only [applyOp, step, State.fetched_ended h]
  · obtain ⟨t, ht⟩ := applyOp_eq_unlessHalted (s := s) ho
    exact ht.trans (unlessHalted_some h)

/-- Settles O50: a step answers a next state because every instruction does, and the host's operations are guarded by halted
alone. -/
theorem liveSessionNeverStops : Obligations.LiveSessionNeverStops := by
  unfold Obligations.LiveSessionNeverStops
  exact ⟨fun _ _ h => applyOp_of_live h, fun _ _ => exec_answers_next⟩

end Sys2Proof.Machine
end

section
/-! SUPPORT. How a run ends (R244): what each end says of the state a run left, and that nothing follows a fatal error. -/

namespace Sys2Proof.Machine

variable {s t : State} {k : FatalKind} {x : Reg} {os os' : List Op}

/-! The end of a run that left a state. -/

theorem State.runEnd_cases (s : State) :
    (∃ k, s.halted = some k ∧ s.runEnd = .fatal k) ∨
      (s.halted = none ∧ s.mode = .awaitingKey ∧ s.runEnd = .waiting s.waitReg) ∨
      (s.halted = none ∧ s.mode = .running ∧ s.runEnd = .ceased) := by
  cases h : s.halted with
  | some k => exact .inl ⟨k, rfl, State.runEnd_fatal h⟩
  | none =>
    cases hm : s.mode with
    | awaitingKey => exact .inr (.inl ⟨rfl, rfl, State.runEnd_waiting h hm⟩)
    | running => exact .inr (.inr ⟨rfl, rfl, State.runEnd_ceased h hm⟩)

theorem State.runEnd_eq_fatal_iff : s.runEnd = .fatal k ↔ s.halted = some k := by
  obtain ⟨j, hh, he⟩ | ⟨hh, hm, he⟩ | ⟨hh, hm, he⟩ := s.runEnd_cases <;> simp [*]

theorem State.runEnd_eq_waiting_iff :
    s.runEnd = .waiting x ↔ s.halted = none ∧ s.mode = .awaitingKey ∧ s.waitReg = x := by
  obtain ⟨j, hh, he⟩ | ⟨hh, hm, he⟩ | ⟨hh, hm, he⟩ := s.runEnd_cases <;> simp [*]

theorem State.runEnd_eq_ceased_iff : s.runEnd = .ceased ↔ s.halted = none ∧ s.mode = .running := by
  obtain ⟨j, hh, he⟩ | ⟨hh, hm, he⟩ | ⟨hh, hm, he⟩ := s.runEnd_cases <;> simp [*]

theorem endOfRun_of_next (h : runOps os s = .next t) : endOfRun os s = .next t.runEnd := by
  simp only [endOfRun, h]

theorem endOfRun_of_fault (h : runOps os s = .fault (.sessionOver k)) : endOfRun os s = .next (.fatal k) := by
  simp only [endOfRun, h]

/-! Runs. -/

/-- A run leaves a state, or was refused because a fatal error had ended the session; no operation lacks a meaning. -/
theorem runOps_cases : (∃ t, runOps os s = .next t) ∨ ∃ k, runOps os s = .fault (.sessionOver k) := by
  induction os generalizing s with
  | nil => exact .inl ⟨s, rfl⟩
  | cons o os ih =>
    cases h : s.halted with
    | some k => exact .inr ⟨k, by simp only [runOps, applyOp_of_halted h]⟩
    | none =>
      obtain ⟨t, ht⟩ := applyOp_of_live (o := o) h
      simpa only [runOps, ht] using ih

/-- From a session that has ended every run ends fatal, with no operation or with the first one refused (R211). -/
theorem endOfRun_of_halted (h : s.halted = some k) : endOfRun os s = .next (.fatal k) := by
  cases os with
  | nil => rw [endOfRun_of_next rfl, State.runEnd_fatal h]
  | cons o os => exact endOfRun_of_fault (by simp only [runOps, applyOp_of_halted h])

/-- No further call undoes a fatal end, whether the run left the fatal state or a call after it was already refused. -/
theorem endOfRun_append_of_fatal (h : endOfRun os s = .next (.fatal k)) :
    endOfRun (os ++ os') s = .next (.fatal k) := by
  obtain ⟨t, ht⟩ | ⟨j, hj⟩ := runOps_cases (os := os) (s := s)
  · rw [endOfRun_of_next ht, Host.Outcome.next.injEq, State.runEnd_eq_fatal_iff] at h
    have hrest : endOfRun os' t = .next (.fatal k) := endOfRun_of_halted h
    simpa only [endOfRun, runOps_append ht] using hrest
  · rw [endOfRun_of_fault hj] at h
    rw [endOfRun_of_fault (runOps_append_fault hj), h]

/-- Settles O59: a run leaves a state, whose end its halted and mode name, or it was refused for a fatal error. -/
theorem runsEndByFatalErrorOrTheHost : Obligations.RunsEndByFatalErrorOrTheHost := by
  unfold Obligations.RunsEndByFatalErrorOrTheHost
  intro os s
  obtain ⟨t, ht⟩ | ⟨j, hj⟩ := runOps_cases (os := os) (s := s)
  · exact ⟨t.runEnd, endOfRun_of_next ht, by simp [ht, State.runEnd_eq_fatal_iff],
      by simp [ht, State.runEnd_eq_waiting_iff], by simp [ht, State.runEnd_eq_ceased_iff],
      fun k hk more => endOfRun_append_of_fatal (hk ▸ endOfRun_of_next ht)⟩
  · exact ⟨.fatal j, endOfRun_of_fault hj, by simp [hj], by simp [hj], by simp [hj],
      fun k hk more => endOfRun_append_of_fatal (hk ▸ endOfRun_of_fault hj)⟩

/-! Steps that leave the state as it is. -/

/-- A jump to its own address puts back the pc that the fetch has advanced, and writes nothing else (R101). -/
theorem step_selfJump {nnn : Addr} (hf : s.fetched = .run (.jp nnn)) (hpc : s.pc.toNat = nnn.toNat) :
    step s = .next s := by
  have htarget : zextAddr nnn = s.pc := BitVec.eq_of_toNat_eq (zextAddr_toNat.trans hpc.symm)
  calc step s = .next (s.advance.setPc (zextAddr nnn)) := by simp only [step, hf, exec, execJp]
    _ = .next (s.advance.setPc s.pc) := by rw [htarget]
    _ = .next s := rfl

theorem runOps_replicate_step {n : Nat} (h : step s = .next s) : runOps (List.replicate n .step) s = .next s := by
  induction n with
  | zero => rfl
  | succ n ih => simpa only [List.replicate_succ, runOps, applyOp, h] using ih

/-- Settles O60: a step of either kind answers the state it began in, so n of them do, and the end is that state's. -/
theorem selfJumpAndKeyWaitEndNothing : Obligations.SelfJumpAndKeyWaitEndNothing := by
  unfold Obligations.SelfJumpAndKeyWaitEndNothing
  intro n s hh
  constructor
  · intro nnn hm hf hpc
    have hrun := runOps_replicate_step (n := n) (step_selfJump hf hpc)
    exact ⟨hrun, by rw [endOfRun_of_next hrun, State.runEnd_ceased hh hm]⟩
  · intro hm
    have hrun := runOps_replicate_step (n := n) (step_waiting hh hm)
    exact ⟨hrun, by rw [endOfRun_of_next hrun, State.runEnd_waiting hh hm]⟩

end Sys2Proof.Machine
end

section
/-! SUPPORT. The decoder against the encoder and the opcode map: the families not named so far, the round trip, and which words
are unknown (R73 to R80). -/

namespace Sys2Proof

variable {p : Params} {w : Word} {i : Instr} {o x y n : Nibble} {kk : Byte} {nnn : Addr} {r : OpcodeRow}

/-! The remaining families. -/

theorem decodeWord_call (h : opField w = 0x2) : decodeWord p w = .ok (.call (nnnField w)) := by
  simp [decodeWord, h]

theorem decodeWord_skipEqualImmediate (h : opField w = 0x3) :
    decodeWord p w = .ok (.seVxKk (xField w) (kkField w)) := by
  simp [decodeWord, h]

theorem decodeWord_skipUnequalImmediate (h : opField w = 0x4) :
    decodeWord p w = .ok (.sneVxKk (xField w) (kkField w)) := by
  simp [decodeWord, h]

theorem decodeWord_jumpOffset (h : opField w = 0xB) : decodeWord p w = .ok (.jpV0Nnn (nnnField w)) := by
  simp [decodeWord, h]

theorem decodeWord_random (h : opField w = 0xC) : decodeWord p w = .ok (.rndVxKk (xField w) (kkField w)) := by
  simp [decodeWord, h]

theorem decodeWord_draw (h : opField w = 0xD) :
    decodeWord p w = .ok (.drwVxVyN (xField w) (yField w) (nField w)) := by
  simp [decodeWord, h]

theorem decodeWord_key (h : opField w = 0xE) : decodeWord p w = decodeKey (xField w) (kkField w) := by
  simp [decodeWord, h]

/-- A word of the key family decodes by the low byte of its pattern. -/
theorem decodeWord_of_key_mask {c : Word} (h : w &&& 0xF0FF = c) (hc : opField c = 0xE) :
    decodeWord p w = decodeKey (xField w) (kkField c) := by
  obtain ⟨hop, hkk⟩ := fields_of_mask_kk h
  rw [decodeWord_key (hop.trans hc), hkk]

/-- The sixteen families (R76). -/
theorem nibble_cases (o : Nibble) :
    o = 0x0 ∨ o = 0x1 ∨ o = 0x2 ∨ o = 0x3 ∨ o = 0x4 ∨ o = 0x5 ∨ o = 0x6 ∨ o = 0x7 ∨
      o = 0x8 ∨ o = 0x9 ∨ o = 0xA ∨ o = 0xB ∨ o = 0xC ∨ o = 0xD ∨ o = 0xE ∨ o = 0xF := by
  revert o
  decide

/-! From an instruction to its word and back. -/

theorem decodeWord_encode (h : WellFormed p i = true) : decodeWord p (encode i) = .ok i := by
  cases i with
  | cls | ret => rfl
  | jp | call | ldINnn | jpV0Nnn => simp [encode, decodeWord]
  | seVxKk | sneVxKk | ldVxKk | addVxKk | rndVxKk | drwVxVyN => simp [encode, decodeWord]
  | seVxVy | sneVxVy => simp [encode, decodeWord, decodeRegisterSkip]
  | ldVxVy => simpa [encode, decodeWord, decodeAlu, WellFormed] using h
  | orVxVy | andVxVy | xorVxVy | addVxVy | subVxVy | shrVx | subnVxVy | shlVx =>
    simp [encode, decodeWord, decodeAlu]
  | skpVx | sknpVx => simp [encode, decodeWord, decodeKey]
  | ldVxDT | ldVxK | ldDTVx | ldSTVx | addIVx | ldFVx | ldBVx | ldMemVx | ldVxMem =>
    simp [encode, decodeWord, decodeMisc]

theorem decode_bytesOfWord (h : decodeWord p w = .ok i) : decode p (bytesOfWord w) = .ok (i, []) := by
  obtain ⟨hi, lo, hbytes, hword⟩ := wordOfBytes_bytesOfWord w
  rw [hbytes, decode_two_ok, hword, h]

/-- Settles O9: each layout gives its fields back, and the two bytes make up the word again. -/
theorem decodeInvertsEncode : Obligations.DecodeInvertsEncode := by
  unfold Obligations.DecodeInvertsEncode
  exact fun p i h => ⟨decodeWord_encode h, decode_bytesOfWord (decodeWord_encode h)⟩

/-! From a word to its instruction and back. -/

theorem packNnn_of_opField (h : opField w = o) : packNnn o (nnnField w) = w := h ▸ packNnn_fields w

theorem packXkk_of_opField (h : opField w = o) : packXkk o (xField w) (kkField w) = w := h ▸ packXkk_fields w

theorem packXyn_of_opField (h : opField w = o) : packXyn o (xField w) (yField w) (nField w) = w := h ▸ packXyn_fields w

/-- The system family holds CLS and RET, each by its low byte (R77). -/
theorem decodeSystem_ok (h : decodeSystem kk = .ok i) :
    (i = .cls ∨ i = .ret) ∧ encode i = packXkk 0x0 0x0 kk := by
  unfold decodeSystem at h
  split at h <;> cases h <;> exact ⟨by simp, rfl⟩

theorem decodeAlu_ok (h : decodeAlu p x y n = .ok i) : WellFormed p i = true ∧ encode i = packXyn 0x8 x y n := by
  unfold decodeAlu at h
  split at h
  case h_1 =>
    split at h
    · cases h; exact ⟨‹_›, rfl⟩
    · cases h
  case h_10 => cases h
  all_goals
    cases h
    exact ⟨rfl, rfl⟩

theorem decodeKey_ok (h : decodeKey x kk = .ok i) : WellFormed p i = true ∧ encode i = packXkk 0xE x kk := by
  unfold decodeKey at h
  split at h <;> cases h <;> exact ⟨rfl, rfl⟩

theorem decodeMisc_ok (h : decodeMisc x kk = .ok i) : WellFormed p i = true ∧ encode i = packXkk 0xF x kk := by
  unfold decodeMisc at h
  split at h <;> cases h <;> exact ⟨rfl, rfl⟩

theorem decodeRegisterSkip_ok {j : Instr} (h : decodeRegisterSkip j n = .ok i) : i = j ∧ n = 0 := by
  by_cases hn : n = 0
  · subst hn
    exact ⟨by cases h; rfl, rfl⟩
  · rw [decodeRegisterSkip_of_ne_zero hn] at h
    cases h

/-- In the system family R78's mask drops the x nibble alone (decision D4). -/
theorem and_mask_system (h : opField w = 0x0) : w &&& 0xF0FF = packXkk 0x0 0x0 (kkField w) := by
  have hmask := and_mask_op_kk w
  rw [h] at hmask
  exact hmask

theorem decodeWord_system_ok (hop : opField w = 0x0) (h : decodeWord p w = .ok i) :
    (i = .cls ∨ i = .ret) ∧ encode i = w &&& 0xF0FF := by
  rw [decodeWord_system hop] at h
  obtain ⟨hi, henc⟩ := decodeSystem_ok h
  exact ⟨hi, henc.trans (and_mask_system hop).symm⟩

/-- Outside the system family a word that decodes is the encoding of what it decodes to. -/
theorem decodeWord_ok (hop : opField w ≠ 0x0) (h : decodeWord p w = .ok i) :
    WellFormed p i = true ∧ encode i = w := by
  rcases nibble_cases (opField w) with
    h0 | h1 | h2 | h3 | h4 | h5 | h6 | h7 | h8 | h9 | hA | hB | hC | hD | hE | hF
  · exact absurd h0 hop
  · rw [decodeWord_jump h1] at h; cases h; exact ⟨rfl, packNnn_of_opField h1⟩
  · rw [decodeWord_call h2] at h; cases h; exact ⟨rfl, packNnn_of_opField h2⟩
  · rw [decodeWord_skipEqualImmediate h3] at h; cases h; exact ⟨rfl, packXkk_of_opField h3⟩
  · rw [decodeWord_skipUnequalImmediate h4] at h; cases h; exact ⟨rfl, packXkk_of_opField h4⟩
  · rw [decodeWord_skipEqual h5] at h
    obtain ⟨rfl, hn⟩ := decodeRegisterSkip_ok h
    exact ⟨rfl, (congrArg _ hn.symm).trans (packXyn_of_opField h5)⟩
  · rw [decodeWord_loadImmediate h6] at h; cases h; exact ⟨rfl, packXkk_of_opField h6⟩
  · rw [decodeWord_addImmediate h7] at h; cases h; exact ⟨rfl, packXkk_of_opField h7⟩
  · rw [decodeWord_alu h8] at h
    exact packXyn_of_opField h8 ▸ decodeAlu_ok h
  · rw [decodeWord_skipUnequal h9] at h
    obtain ⟨rfl, hn⟩ := decodeRegisterSkip_ok h
    exact ⟨rfl, (congrArg _ hn.symm).trans (packXyn_of_opField h9)⟩
  · rw [decodeWord_loadIndex hA] at h; cases h; exact ⟨rfl, packNnn_of_opField hA⟩
  · rw [decodeWord_jumpOffset hB] at h; cases h; exact ⟨rfl, packNnn_of_opField hB⟩
  · rw [decodeWord_random hC] at h; cases h; exact ⟨rfl, packXkk_of_opField hC⟩
  · rw [decodeWord_draw hD] at h; cases h; exact ⟨rfl, packXyn_of_opField hD⟩
  · rw [decodeWord_key hE] at h
    exact packXkk_of_opField hE ▸ decodeKey_ok h
  · rw [decodeWord_misc hF] at h
    exact packXkk_of_opField hF ▸ decodeMisc_ok h

/-! The opcode map. -/

theorem encode_matches : (opcodeRow i).matches (encode i) = true := by
  have hrow : Laws.TableRow.Statement i := by
    cases i with
    | cls => exact Laws.TableRow.cls
    | ret => exact Laws.TableRow.ret
    | jp => exact Laws.TableRow.jp _
    | call => exact Laws.TableRow.call _
    | seVxKk => exact Laws.TableRow.seVxKk _ _
    | sneVxKk => exact Laws.TableRow.sneVxKk _ _
    | seVxVy => exact Laws.TableRow.seVxVy _ _
    | ldVxKk => exact Laws.TableRow.ldVxKk _ _
    | addVxKk => exact Laws.TableRow.addVxKk _ _
    | ldVxVy => exact Laws.TableRow.ldVxVy _ _
    | orVxVy => exact Laws.TableRow.orVxVy _ _
    | andVxVy => exact Laws.TableRow.andVxVy _ _
    | xorVxVy => exact Laws.TableRow.xorVxVy _ _
    | addVxVy => exact Laws.TableRow.addVxVy _ _
    | subVxVy => exact Laws.TableRow.subVxVy _ _
    | shrVx => exact Laws.TableRow.shrVx _ _
    | subnVxVy => exact Laws.TableRow.subnVxVy _ _
    | shlVx => exact Laws.TableRow.shlVx _ _
    | sneVxVy => exact Laws.TableRow.sneVxVy _ _
    | ldINnn => exact Laws.TableRow.ldINnn _
    | jpV0Nnn => exact Laws.TableRow.jpV0Nnn _
    | rndVxKk => exact Laws.TableRow.rndVxKk _ _
    | drwVxVyN => exact Laws.TableRow.drwVxVyN _ _ _
    | skpVx => exact Laws.TableRow.skpVx _
    | sknpVx => exact Laws.TableRow.sknpVx _
    | ldVxDT => exact Laws.TableRow.ldVxDT _
    | ldVxK => exact Laws.TableRow.ldVxK _
    | ldDTVx => exact Laws.TableRow.ldDTVx _
    | ldSTVx => exact Laws.TableRow.ldSTVx _
    | addIVx => exact Laws.TableRow.addIVx _
    | ldFVx => exact Laws.TableRow.ldFVx _
    | ldBVx => exact Laws.TableRow.ldBVx _
    | ldMemVx => exact Laws.TableRow.ldMemVx _
    | ldVxMem => exact Laws.TableRow.ldVxMem _
  exact hrow

/-- The one row that needs HAS_8XY0 is that of the one instruction that needs it (R124). -/
theorem admitted_eq_wellFormed : (opcodeRow i).admitted p = WellFormed p i := by
  cases i with
  | ldVxVy => simp [OpcodeRow.admitted, opcodeRow, WellFormed]
  | _ => exact Bool.or_true _

/-- Settles O10: CLS and RET are the system family, whose words differ from the encoding in the x nibble alone; any other word
that decodes is the encoding, and an encoding matches its row. -/
theorem decodedWordIsTheEncoding : Obligations.DecodedWordIsTheEncoding := by
  unfold Obligations.DecodedWordIsTheEncoding
  intro p w i h
  rw [admitted_eq_wellFormed]
  by_cases hop : opField w = 0x0
  · obtain ⟨hi, henc⟩ := decodeWord_system_ok hop h
    rw [if_pos hi]
    refine ⟨?_, ?_, ?_, henc⟩
    · rcases hi with rfl | rfl <;> rfl
    · rcases hi with rfl | rfl <;> exact beq_of_eq henc.symm
    · rcases hi with rfl | rfl <;> rfl
  · obtain ⟨hwf, rfl⟩ := decodeWord_ok hop h
    have hi : ¬(i = .cls ∨ i = .ret) := by
      rintro (rfl | rfl) <;> exact hop rfl
    rw [if_neg hi]
    exact ⟨hwf, encode_matches, hwf, rfl⟩

theorem opcodeRow_mem : opcodeRow i ∈ opcodeRows := by
  cases i with
  | _ => simp [opcodeRows, opcodeRow]

theorem exists_of_mem_opcodeRows (h : r ∈ opcodeRows) : ∃ i, r = opcodeRow i := by
  obtain ⟨i, -, hi⟩ := List.mem_map.1 h
  exact ⟨i, hi.symm⟩

/-- A word that matches a row which the machine has decodes: by its family, and in families 0x0, 0x5, 0x8, 0x9, 0xE and 0xF by
the low nibble or the low byte that the row's pattern fixes. -/
theorem decodeWord_of_matches (ha : (opcodeRow i).admitted p = true) (h : (opcodeRow i).matches w = true) :
    ∃ j, decodeWord p w = .ok j := by
  have hm : w &&& (opcodeRow i).mask = (opcodeRow i).pattern := eq_of_beq h
  rw [admitted_eq_wellFormed] at ha
  cases i <;> dsimp only [opcodeRow] at hm
  case cls | ret => exact ⟨_, decodeWord_of_system_mask hm rfl⟩
  case jp => exact ⟨_, decodeWord_jump (opField_of_mask hm)⟩
  case call => exact ⟨_, decodeWord_call (opField_of_mask hm)⟩
  case seVxKk => exact ⟨_, decodeWord_skipEqualImmediate (opField_of_mask hm)⟩
  case sneVxKk => exact ⟨_, decodeWord_skipUnequalImmediate (opField_of_mask hm)⟩
  case seVxVy =>
    obtain ⟨hop, hn⟩ := fields_of_mask_n hm
    exact ⟨_, (decodeWord_skipEqual hop).trans ((congrArg _ hn).trans decodeRegisterSkip_zero)⟩
  case ldVxKk => exact ⟨_, decodeWord_loadImmediate (opField_of_mask hm)⟩
  case addVxKk => exact ⟨_, decodeWord_addImmediate (opField_of_mask hm)⟩
  case ldVxVy => exact ⟨_, (decodeWord_of_alu_mask hm rfl).trans (if_pos ha)⟩
  case orVxVy | andVxVy | xorVxVy | addVxVy | subVxVy | shrVx | subnVxVy | shlVx =>
    exact ⟨_, decodeWord_of_alu_mask hm rfl⟩
  case sneVxVy =>
    obtain ⟨hop, hn⟩ := fields_of_mask_n hm
    exact ⟨_, (decodeWord_skipUnequal hop).trans ((congrArg _ hn).trans decodeRegisterSkip_zero)⟩
  case ldINnn => exact ⟨_, decodeWord_loadIndex (opField_of_mask hm)⟩
  case jpV0Nnn => exact ⟨_, decodeWord_jumpOffset (opField_of_mask hm)⟩
  case rndVxKk => exact ⟨_, decodeWord_random (opField_of_mask hm)⟩
  case drwVxVyN => exact ⟨_, decodeWord_draw (opField_of_mask hm)⟩
  case skpVx | sknpVx => exact ⟨_, decodeWord_of_key_mask hm rfl⟩
  case ldVxDT | ldVxK | ldDTVx | ldSTVx | addIVx | ldFVx | ldBVx | ldMemVx | ldVxMem =>
    exact ⟨_, decodeWord_of_misc_mask hm rfl⟩

/-- Any two rows fix some bit in common, and fix it differently (R80). -/
theorem opcodeRows_disjoint :
    opcodeRows.Pairwise fun r q => r.pattern &&& q.mask ≠ q.pattern &&& r.mask := by decide

theorem pattern_and_mask_of_matches {q : OpcodeRow} (hr : r.matches w = true) (hq : q.matches w = true) :
    r.pattern &&& q.mask = q.pattern &&& r.mask := by
  rw [← eq_of_beq hr, ← eq_of_beq hq, BitVec.and_assoc, BitVec.and_assoc, BitVec.and_comm r.mask]

/-- No word matches two rows (R80). -/
theorem matching_rows_length : (opcodeRows.filter fun r => r.matches w).length ≤ 1 := by
  have hdisjoint := opcodeRows_disjoint.filter (p := fun r => r.matches w)
  have hmatches : ∀ e ∈ opcodeRows.filter fun r => r.matches w, e.matches w = true :=
    fun e he => (List.mem_filter.1 he).2
  match hrows : opcodeRows.filter fun r => r.matches w with
  | [] | [_] => simp [hrows]
  | r :: q :: rows =>
    rw [hrows] at hdisjoint hmatches
    exact absurd (pattern_and_mask_of_matches (hmatches r (by simp)) (hmatches q (by simp)))
      (List.rel_of_pairwise_cons hdisjoint (by simp))

/-- Settles O11: a word that matches a row the machine has decodes, and a word that decodes matches the row of its instruction;
two rows always fix a bit differently. -/
theorem unknownExactlyWhenNoRowMatches : Obligations.UnknownExactlyWhenNoRowMatches := by
  unfold Obligations.UnknownExactlyWhenNoRowMatches
  refine fun p w => ⟨⟨?_, fun hnone => ?_⟩, matching_rows_length⟩
  · rintro ⟨why, hwhy⟩ r hr ha
    obtain ⟨i, rfl⟩ := exists_of_mem_opcodeRows hr
    rw [Bool.eq_false_iff]
    intro hm
    obtain ⟨j, hj⟩ := decodeWord_of_matches ha hm
    rw [hj] at hwhy
    cases hwhy
  · cases hd : decodeWord p w with
    | error why => exact ⟨why, rfl⟩
    | ok i =>
      obtain ⟨-, hm, ha, -⟩ := decodedWordIsTheEncoding p w i hd
      simp [hnone _ opcodeRow_mem ha] at hm

/-! The unknown words. -/

theorem decodeSystem_error_iff : (∃ why, decodeSystem kk = .error why) ↔ kk ≠ 0xE0 ∧ kk ≠ 0xEE := by
  unfold decodeSystem
  split <;> simp_all

theorem decodeRegisterSkip_error_iff : (∃ why, decodeRegisterSkip i n = .error why) ↔ n ≠ 0x0 := by
  by_cases hn : n = 0
  · subst hn
    rw [decodeRegisterSkip_zero]
    simp
  · exact iff_of_true ⟨_, decodeRegisterSkip_of_ne_zero hn⟩ hn

theorem decodeAlu_error_iff :
    (∃ why, decodeAlu p x y n = .error why) ↔
      n ∈ ([0x8, 0x9, 0xA, 0xB, 0xC, 0xD, 0xF] : List Nibble) ∨ (n = 0x0 ∧ p.has8xy0 = false) := by
  rcases nibble_cases n with
    rfl | rfl | rfl | rfl | rfl | rfl | rfl | rfl | rfl | rfl | rfl | rfl | rfl | rfl | rfl | rfl
  case inl => cases hp : p.has8xy0 <;> simp [decodeAlu, hp]
  all_goals simp [decodeAlu]

theorem decodeKey_error_iff : (∃ why, decodeKey x kk = .error why) ↔ kk ≠ 0x9E ∧ kk ≠ 0xA1 := by
  unfold decodeKey
  split <;> simp_all

theorem decodeMisc_error_iff :
    (∃ why, decodeMisc x kk = .error why) ↔
      kk ∉ ([0x07, 0x0A, 0x15, 0x18, 0x1E, 0x29, 0x33, 0x55, 0x65] : List Byte) := by
  unfold decodeMisc
  split <;> simp_all

/-- Settles O12: the families without a second level know every word, and each of the others its own list. -/
theorem unknownWordsAreTheListed : Obligations.UnknownWordsAreTheListed := by
  unfold Obligations.UnknownWordsAreTheListed
  intro p w
  rcases nibble_cases (opField w) with
    h0 | h1 | h2 | h3 | h4 | h5 | h6 | h7 | h8 | h9 | hA | hB | hC | hD | hE | hF
  · simp [h0, decodeWord_system, decodeSystem_error_iff]
  · simp [h1, decodeWord_jump]
  · simp [h2, decodeWord_call]
  · simp [h3, decodeWord_skipEqualImmediate]
  · simp [h4, decodeWord_skipUnequalImmediate]
  · simp [h5, decodeWord_skipEqual, decodeRegisterSkip_error_iff]
  · simp [h6, decodeWord_loadImmediate]
  · simp [h7, decodeWord_addImmediate]
  · simp [h8, decodeWord_alu, decodeAlu_error_iff]
  · simp [h9, decodeWord_skipUnequal, decodeRegisterSkip_error_iff]
  · simp [hA, decodeWord_loadIndex]
  · simp [hB, decodeWord_jumpOffset]
  · simp [hC, decodeWord_random]
  · simp [hD, decodeWord_draw]
  · simp [hE, decodeWord_key, decodeKey_error_iff]
  · simp [hF, decodeWord_misc, decodeMisc_error_iff]

/-- Settles O13: thirteen closed facts, by evaluation of the decoder. -/
theorem sampleWordsDecode : Obligations.SampleWordsDecode := by
  unfold Obligations.SampleWordsDecode
  decide

end Sys2Proof
end

section
/-! SUPPORT. The frames of the writes not framed so far: memory, the stack, the key lines, the engine's state, the draws, and
the two ways to raise an error. -/

namespace Sys2Proof.Machine

variable {s t : State} {ps qs : List Piece} {x : Reg} {b f : Byte} {a j : Nat} {xs : List Byte} {d : Diag}

theorem sameBut_mono (h : sameBut ps s t) (hsub : ps ⊆ qs) : sameBut qs s t :=
  fun p hp => h p fun hmem => hp (hsub hmem)

theorem State.setMem_sameBut {m : Memory} (h : .mem ∈ ps) : sameBut ps s (s.setMem m) := by
  intro p hp
  cases p with
  | mem => exact absurd h hp
  | v | keys => exact fun _ => rfl
  | fb => exact fun _ _ => rfl
  | _ => rfl

theorem State.setStack_sameBut {k : Vector Word 16} {n : Fin 17} (hk : .stack ∈ ps) (hn : .sp ∈ ps) :
    sameBut ps s (s.setStack k n) := by
  intro p hp
  cases p with
  | stack => exact absurd hk hp
  | sp => exact absurd hn hp
  | mem | v | keys => exact fun _ => rfl
  | fb => exact fun _ _ => rfl
  | _ => rfl

theorem State.setKeys_sameBut {k : Vector Bool 16} (h : .keys ∈ ps) : sameBut ps s (s.setKeys k) := by
  intro p hp
  cases p with
  | keys => exact absurd h hp
  | mem | v => exact fun _ => rfl
  | fb => exact fun _ _ => rfl
  | _ => rfl

theorem State.setMode_sameBut {m : Mode} (h : .mode ∈ ps) : sameBut ps s (s.setMode m) := by
  intro p hp
  cases p with
  | mode => exact absurd h hp
  | mem | v | keys => exact fun _ => rfl
  | fb => exact fun _ _ => rfl
  | _ => rfl

theorem State.setWaitReg_sameBut (h : .waitReg ∈ ps) : sameBut ps s (s.setWaitReg x) := by
  intro p hp
  cases p with
  | waitReg => exact absurd h hp
  | mem | v | keys => exact fun _ => rfl
  | fb => exact fun _ _ => rfl
  | _ => rfl

theorem State.bumpDraws_sameBut (h : .draws ∈ ps) : sameBut ps s s.bumpDraws := by
  intro p hp
  cases p with
  | draws => exact absurd h hp
  | mem | v | keys => exact fun _ => rfl
  | fb => exact fun _ _ => rfl
  | _ => rfl

theorem State.report_sameBut (h : .diag ∈ ps) : sameBut ps s (s.report d) := by
  intro p hp
  cases p with
  | diag => exact absurd h hp
  | mem | v | keys => exact fun _ => rfl
  | fb => exact fun _ _ => rfl
  | _ => rfl

theorem State.writeBytes_sameBut (h : .mem ∈ ps) : sameBut ps s (s.writeBytes a xs) := by
  obtain ⟨m, hm⟩ := State.writeBytes_eq (s := s) (a := a) (xs := xs)
  rw [hm]
  exact State.setMem_sameBut h

theorem State.writeBytes_memBut (h : a + xs.length ≤ 4096) : memBut a xs.length s (s.writeBytes a xs) := by
  intro c hc
  rw [State.memRead?_writeBytes h, if_neg hc]

theorem State.storeOrReport_sameBut (hm : .mem ∈ ps) (hd : .diag ∈ ps) :
    sameBut ps s (s.storeOrReport a xs d) := by
  rcases Nat.lt_or_ge 4096 (a + xs.length) with hout | hin
  · rw [State.storeOrReport_reports hout]
    exact State.report_sameBut hd
  · rw [State.storeOrReport_stores hin]
    exact State.writeBytes_sameBut hm

theorem State.setRegsFrom_sameBut (h : .v ∈ ps) : sameBut ps s (s.setRegsFrom j xs) := by
  obtain ⟨r, hr⟩ := State.setRegsFrom_eq (s := s) (j := j) (bs := xs)
  rw [hr]
  exact State.setV_sameBut h

theorem State.setLogicResult_sameBut (h : .v ∈ ps) : sameBut ps s (s.setLogicResult x b) := by
  obtain ⟨r, hr⟩ := State.setLogicResult_eq (s := s) (x := x) (b := b)
  rw [hr]
  exact State.setV_sameBut h

end Sys2Proof.Machine
end

section
/-! SUPPORT. The jumps, CALL and the skips on an immediate (R102 to R104, R107). -/

namespace Sys2Proof.Machine

variable {s : State} {nnn : Addr}

/-- Settles O17: the sum of a byte and a 12-bit address does not wrap, and only pc is written. -/
theorem jumpWithOffsetAddsV0 : Obligations.JumpWithOffsetAddsV0 := by
  unfold Obligations.JumpWithOffsetAddsV0
  refine ⟨fun p w hw => decodeWord_jumpOffset (opField_of_mask hw), fun nnn s => ?_⟩
  exact ⟨s.setPc (zextByte (s.reg 0) + zextAddr nnn), rfl, zextByte_add_zextAddr_toNat, State.setPc_sameBut (by simp)⟩

/-- Settles O23: each skip writes only pc, by its test of V[x] against the immediate. -/
theorem immediateSkipsTestTheRegister : Obligations.ImmediateSkipsTestTheRegister := by
  unfold Obligations.ImmediateSkipsTestTheRegister
  refine ⟨fun p w hw => decodeWord_skipEqualImmediate (opField_of_mask hw),
    fun p w hw => decodeWord_skipUnequalImmediate (opField_of_mask hw), fun x kk s => ⟨?_, ?_⟩⟩
  · exact ⟨s.skipIf (s.reg x == kk), rfl, by simp [State.skipIf_pc], State.skipIf_sameBut⟩
  · exact ⟨s.skipIf (s.reg x != kk), rfl, by simp [State.skipIf_pc], State.skipIf_sameBut⟩

/-! CALL (R102). -/

theorem exec_call_of_room (h : s.sp.val < 16) :
    ∃ k n, exec (.call nnn) s = .next ((s.setStack k n).setPc (zextAddr nnn)) ∧ n.val = s.sp.val + 1 ∧
      k[s.sp.val]? = some s.pc ∧ ∀ j, j ≠ s.sp.val → k[j]? = s.stack[j]? := by
  obtain ⟨k, n, hpush, hframe⟩ := State.push?_some (a := s.pc) h
  exact ⟨k, n, by simp only [exec, execCall, hpush], hframe⟩

theorem exec_call_of_full (h : s.sp.val = 16) : exec (.call nnn) s = .next (s.raiseFatal .stackOverflow) := by
  simp only [exec, execCall, State.push?_none h]

/-- Settles O18: with room CALL is a push of the advanced pc and then a jump. -/
theorem callPushesReturnAddress : Obligations.CallPushesReturnAddress := by
  unfold Obligations.CallPushesReturnAddress
  refine ⟨fun p w hw => decodeWord_call (opField_of_mask hw), fun nnn s hsp => ?_⟩
  obtain ⟨k, n, hexec, hn, htop, hrest⟩ := exec_call_of_room hsp
  exact ⟨_, hexec, zextAddr_toNat, hn, htop, hrest,
    sameBut_trans (State.setStack_sameBut (by simp) (by simp)) (State.setPc_sameBut (by simp))⟩

/-- Settles O19: without room CALL writes only halted. -/
theorem callOnFullStackIsFatal : Obligations.CallOnFullStackIsFatal := by
  unfold Obligations.CallOnFullStackIsFatal
  exact fun nnn s hsp => ⟨_, exec_call_of_full hsp, rfl, State.raiseFatal_sameBut⟩

/-- Settles O21: the top entry at the return is the one the call pushed. -/
theorem returnUndoesCall : Obligations.ReturnUndoesCall := by
  unfold Obligations.ReturnUndoesCall
  intro nnn s t t' hsp hcall hstack hsp'
  obtain ⟨k, n, hexec, hn, htop, -⟩ := exec_call_of_room (nnn := nnn) hsp
  cases hexec.symm.trans hcall
  have hval : t'.sp.val = s.sp.val + 1 := by rw [hsp']; exact hn
  obtain ⟨a, m, hret, hpopped, hm⟩ := exec_ret_of_pos (s := t') (by omega)
  have ha : a = s.pc := by
    rw [hstack, hval] at hpopped
    exact Option.some.inj (hpopped.symm.trans htop)
  exact ⟨_, hret, ha, Fin.ext (by simp only [State.setPc_sp, State.setStack_sp]; omega),
    sameBut_trans (State.setStack_same_sameBut (by simp)) (State.setPc_sameBut (by simp))⟩

/-- As long as the stack has room for them, nested calls go through and each raises sp by one (R29). -/
theorem callChain_of_room {as : List Addr} (h : s.sp.val + as.length ≤ 16) :
    ∃ t, callChain as s = .next t ∧ t.sp.val = s.sp.val + as.length ∧ t.halted = s.halted := by
  induction as generalizing s with
  | nil => exact ⟨s, rfl, rfl, rfl⟩
  | cons a as ih =>
    rw [List.length_cons] at h ⊢
    obtain ⟨k, n, hexec, hn, -, -⟩ := exec_call_of_room (s := s) (nnn := a) (by omega)
    obtain ⟨t, hchain, hsp, hhalted⟩ := ih (s := (s.setStack k n).setPc (zextAddr a))
      (by simp only [State.setPc_sp, State.setStack_sp]; omega)
    simp only [State.setPc_sp, State.setStack_sp] at hsp
    exact ⟨t, by simp only [callChain, hexec, hchain], by omega, hhalted⟩

/-- Settles O22: each of sixteen calls from an empty stack has room, and the one after them has none. -/
theorem callsNestSixteenDeep : Obligations.CallsNestSixteenDeep := by
  unfold Obligations.CallsNestSixteenDeep
  intro as s hempty hlen
  obtain ⟨t, hchain, hsp, hhalted⟩ := callChain_of_room (s := s) (as := as) (by omega)
  refine ⟨t, hchain, by omega, hhalted, fun hfull a => ?_⟩
  exact ⟨_, exec_call_of_full (by omega), rfl, State.raiseFatal_sameBut⟩

end Sys2Proof.Machine
end

section
/-! SUPPORT. The register copy, the logic operations and RND (R124 to R127, R133). -/

namespace Sys2Proof.Machine

variable {s : State} {x : Reg} {b : Byte}

/-- Settles O26: the parameter decides whether the low nibble 0 is an instruction; the copy is one register write. -/
theorem copyRegisterWhenAdmitted : Obligations.CopyRegisterWhenAdmitted := by
  unfold Obligations.CopyRegisterWhenAdmitted
  refine ⟨fun p w hw => decodeWord_of_alu_mask hw rfl, fun x y s => ?_⟩
  exact ⟨s.setReg x (s.reg y), rfl, State.reg_setReg_same, State.setReg_regsBut, State.setReg_sameBut (by simp)⟩

theorem State.setLogicResult_regsBut :
    regsBut (if s.params.logicVf = .zero then [x, vf] else [x]) s (s.setLogicResult x b) := by
  cases h : s.params.logicVf with
  | unchanged =>
    rw [State.setLogicResult_unchanged h, if_neg (by simp)]
    exact State.setReg_regsBut
  | zero =>
    rw [State.setLogicResult_zero h, if_pos rfl]
    exact State.setResultThenFlag_regsBut

/-- What the three logic operations have in common: one result, and VF cleared after it when LOGIC_VF says so (R125 to R127). -/
theorem exec_logic {i : Instr} (h : exec i s = .next (s.setLogicResult x b)) :
    ∃ t, exec i s = .next t ∧ sameBut [.v] s t ∧
      (s.params.logicVf = .unchanged → t.reg x = b ∧ regsBut [x] s t) ∧
      (s.params.logicVf = .zero → (x ≠ vf → t.reg x = b) ∧ t.reg vf = 0 ∧ regsBut [x, vf] s t) := by
  refine ⟨_, h, State.setLogicResult_sameBut (by simp), fun hl => ?_, fun hl => ?_⟩
  · rw [State.setLogicResult_unchanged hl]
    exact ⟨State.reg_setReg_same, State.setReg_regsBut⟩
  · rw [State.setLogicResult_zero hl]
    exact ⟨State.reg_setResultThenFlag_result, State.reg_setResultThenFlag_vf, State.setResultThenFlag_regsBut⟩

/-- The byte that a logic operation on V[x] and V[y] gives, bit by bit. -/
theorem exists_logic_result {i : Instr} {y : Reg} {f : Bool → Bool → Bool}
    (h : (i = .orVxVy x y ∧ f = or) ∨ (i = .andVxVy x y ∧ f = and) ∨ (i = .xorVxVy x y ∧ f = xor)) :
    ∃ b : Byte, exec i s = .next (s.setLogicResult x b) ∧
      ∀ k, b.getLsbD k = f ((s.reg x).getLsbD k) ((s.reg y).getLsbD k) := by
  rcases h with ⟨rfl, rfl⟩ | ⟨rfl, rfl⟩ | ⟨rfl, rfl⟩
  · exact ⟨_, rfl, fun _ => BitVec.getLsbD_or⟩
  · exact ⟨_, rfl, fun _ => BitVec.getLsbD_and⟩
  · exact ⟨_, rfl, fun _ => BitVec.getLsbD_xor⟩

/-- Settles O27: the three are one write of a bitwise result, which LOGIC_VF may follow with a clearing of VF. -/
theorem logicOperationsAndVf : Obligations.LogicOperationsAndVf := by
  unfold Obligations.LogicOperationsAndVf
  refine ⟨fun p w hw => decodeWord_of_alu_mask hw rfl, fun p w hw => decodeWord_of_alu_mask hw rfl,
    fun p w hw => decodeWord_of_alu_mask hw rfl, fun x y s i f hi => ?_⟩
  obtain ⟨b, hexec, hbits⟩ := exists_logic_result (s := s) hi
  obtain ⟨t, hexec, hframe, hunchanged, hzero⟩ := exec_logic hexec
  refine ⟨t, hexec, hframe, fun hl => ?_, fun hl => ?_⟩
  · obtain ⟨hx, hregs⟩ := hunchanged hl
    exact ⟨fun k _ => by rw [hx, hbits], hregs⟩
  · obtain ⟨hx, hvf, hregs⟩ := hzero hl
    exact ⟨fun hne k _ => by rw [hx hne, hbits], hvf, hregs⟩

/-- Settles O31: the draw is the next of the source, and the mask clears every bit that kk lacks. -/
theorem randomIsMaskedFreshDraw : Obligations.RandomIsMaskedFreshDraw := by
  unfold Obligations.RandomIsMaskedFreshDraw
  refine ⟨fun p w hw => decodeWord_random (opField_of_mask hw), fun x kk s => ?_⟩
  have hx : ((s.setReg x (Config.randByte s.draws &&& kk)).bumpDraws).reg x = Config.randByte s.draws &&& kk :=
    State.reg_setReg_same
  refine ⟨_, rfl, hx, fun k hk => ?_, rfl, State.setReg_regsBut,
    sameBut_trans (State.setReg_sameBut (by simp)) (State.bumpDraws_sameBut (by simp))⟩
  rw [hx, BitVec.getLsbD_and, hk, Bool.and_false]

end Sys2Proof.Machine
end

section
/-! SUPPORT. The transfers between memory and the registers: in bounds and out of bounds (R153 to R155). -/

namespace Sys2Proof.Machine

variable {s : State} {x : Reg} {b : Byte}

/-! LD B (R153). -/

theorem exec_ldBVx_stores (h : s.iReg.toNat + 2 < 4096) :
    exec (.ldBVx x) s = .next (s.writeBytes s.iReg.toNat (bcdDigits (s.reg x))) :=
  congrArg _ (State.storeOrReport_stores (by simp only [bcdDigits, List.length_cons, List.length_nil]; omega))

theorem exec_ldBVx_reports (h : 4096 ≤ s.iReg.toNat + 2) :
    exec (.ldBVx x) s = .next (s.report (.bcdOutOfBounds s.insnAddr (encode (.ldBVx x)) s.iReg)) :=
  congrArg _ (State.storeOrReport_reports (by simp only [bcdDigits, List.length_cons, List.length_nil]; omega))

/-- The three bytes LD B stores are the decimal digits of the register (R153). -/
theorem exists_bcdDigits (b : Byte) :
    ∃ h m l : Byte, bcdDigits b = [h, m, l] ∧ h.toNat < 10 ∧ m.toNat < 10 ∧ l.toNat < 10 ∧
      b.toNat = 100 * h.toNat + 10 * m.toNat + l.toNat := by
  have := b.isLt
  refine ⟨_, _, _, rfl, ?_⟩
  simp only [BitVec.toNat_ofNat]
  omega

/-- Settles O33: in bounds the three digits are stored at consecutive addresses; out of bounds one record is appended. -/
theorem bcdStoresThreeDigits : Obligations.BcdStoresThreeDigits := by
  unfold Obligations.BcdStoresThreeDigits
  refine ⟨fun p w hw => decodeWord_of_misc_mask hw rfl, fun x s => ⟨fun hin => ?_, fun hout => ?_⟩⟩
  · obtain ⟨h, m, l, hdigits, hvalue⟩ := exists_bcdDigits (s.reg x)
    have hfits : s.iReg.toNat + [h, m, l].length ≤ 4096 := by
      simp only [List.length_cons, List.length_nil]
      omega
    refine ⟨_, exec_ldBVx_stores hin, ?_⟩
    rw [hdigits]
    refine ⟨⟨h, m, l, ?_, ?_, ?_, hvalue⟩, State.writeBytes_memBut hfits, State.writeBytes_sameBut (by simp)⟩ <;>
      simp [State.memRead?_writeBytes hfits]
  · exact ⟨_, exec_ldBVx_reports hout, rfl, State.report_sameBut (by simp)⟩

/-! LD [I] (R154). -/

theorem exec_ldMemVx_stores (h : s.iReg.toNat + x.toNat < 4096) :
    exec (.ldMemVx x) s = .next (s.writeBytes s.iReg.toNat (s.regsUpTo x)) :=
  congrArg _ (State.storeOrReport_stores (by rw [State.regsUpTo_length]; omega))

theorem exec_ldMemVx_reports (h : 4096 ≤ s.iReg.toNat + x.toNat) :
    exec (.ldMemVx x) s =
      .next (s.report (.storeOutOfBounds s.insnAddr (encode (.ldMemVx x)) s.iReg (x.toNat + 1))) :=
  congrArg _ (State.storeOrReport_reports (by rw [State.regsUpTo_length]; omega))

/-- Settles O34: in bounds the list of V[0] to V[x] is stored from I on; out of bounds one record is appended. -/
theorem storeRegistersAllOrNothing : Obligations.StoreRegistersAllOrNothing := by
  unfold Obligations.StoreRegistersAllOrNothing
  refine ⟨fun p w hw => decodeWord_of_misc_mask hw rfl, fun x s => ⟨fun hin => ?_, fun hout => ?_⟩⟩
  · have hlen : (s.regsUpTo x).length = x.toNat + 1 := State.regsUpTo_length
    have hfits : s.iReg.toNat + (s.regsUpTo x).length ≤ 4096 := by omega
    refine ⟨_, exec_ldMemVx_stores hin, fun j hj => ?_, hlen ▸ State.writeBytes_memBut hfits,
      State.writeBytes_sameBut (by simp)⟩
    rw [State.memRead?_writeBytes hfits, if_pos (by omega), Nat.add_sub_cancel_left, State.regsUpTo_getElem? hj]
  · exact ⟨_, exec_ldMemVx_reports hout, rfl, State.report_sameBut (by simp)⟩

/-! LD Vx, [I] (R155). -/

theorem exec_ldVxMem_loads (h : s.iReg.toNat + x.toNat < 4096) :
    ∃ bs, exec (.ldVxMem x) s = .next (s.setRegsFrom 0 bs) ∧ bs.length = x.toNat + 1 ∧
      ∀ j, j < x.toNat + 1 → s.memRead? (s.iReg.toNat + j) = bs[j]? := by
  obtain ⟨bs, hbs⟩ := State.loadBytes?_some (s := s) (a := s.iReg.toNat) (n := x.toNat + 1) (by omega)
  exact ⟨bs, by simp only [exec, execLdVxMem, bulkCount, hbs], State.loadBytes?_eq_some hbs⟩

theorem exec_ldVxMem_reports (h : 4096 ≤ s.iReg.toNat + x.toNat) :
    exec (.ldVxMem x) s =
      .next (s.report (.loadOutOfBounds s.insnAddr (encode (.ldVxMem x)) s.iReg (x.toNat + 1))) := by
  have hnone : s.loadBytes? s.iReg.toNat (x.toNat + 1) = none := State.loadBytes?_none (by omega)
  simp only [exec, execLdVxMem, bulkCount, hnone]

/-- The registers a bulk load of x + 1 bytes leaves: those up to x take the bytes, the others stay (R155). -/
theorem State.reg_setRegsFrom_zero {bs : List Byte} {j : Reg} (h : bs.length = x.toNat + 1) :
    (s.setRegsFrom 0 bs).reg j = if j.toNat ≤ x.toNat then bs.getD j.toNat 0 else s.reg j := by
  have := x.isLt
  simp only [State.reg_setRegsFrom (s := s) (j := 0) (bs := bs) (x := j) (by omega), h, Nat.zero_le, true_and,
    Nat.zero_add, Nat.sub_zero, Nat.lt_succ_iff]

/-- Settles O35: in bounds the bytes from I on go to V[0] to V[x] in order; out of bounds one record is appended. -/
theorem loadRegistersAllOrNothing : Obligations.LoadRegistersAllOrNothing := by
  unfold Obligations.LoadRegistersAllOrNothing
  refine ⟨fun p w hw => decodeWord_of_misc_mask hw rfl, fun x s => ⟨fun hin => ?_, fun hout => ?_⟩⟩
  · obtain ⟨bs, hexec, hlen, hbytes⟩ := exec_ldVxMem_loads hin
    refine ⟨_, hexec, fun j hj => ?_, fun j hj => ?_, State.setRegsFrom_sameBut (by simp)⟩
    · rw [State.reg_setRegsFrom_zero hlen, if_pos hj, hbytes _ (by omega), List.getElem?_eq_getElem (by omega),
        List.getD_eq_getElem _ _ (by omega)]
    · rw [State.reg_setRegsFrom_zero hlen, if_neg (by omega)]
  · exact ⟨_, exec_ldVxMem_reports hout, rfl, State.report_sameBut (by simp)⟩

/-- Settles O36: what O34 says memory holds after the store is what O35 says the load reads. -/
theorem bulkLoadRestoresBulkStore : Obligations.BulkLoadRestoresBulkStore := by
  unfold Obligations.BulkLoadRestoresBulkStore
  intro x s t u hin hstore hI hmem
  obtain ⟨t', hstore', hsaved, -⟩ := (storeRegistersAllOrNothing.2 x s).1 hin
  cases hstore'.symm.trans hstore
  obtain ⟨w, hload, hloaded, -⟩ := (loadRegistersAllOrNothing.2 x u).1 (by rw [hI]; exact hin)
  refine ⟨w, hload, fun j hj => ?_⟩
  have hbyte : some (w.reg j) = some (s.reg j) := by rw [← hloaded j hj, hI, hmem, hsaved j hj]
  exact Option.some.inj hbyte

end Sys2Proof.Machine
end

section
/-! SUPPORT. The key tests and the start of a key wait (R190 to R192, R194). -/

namespace Sys2Proof.Machine

variable {s : State} {i : Instr} {b : Byte} {c : Bool}

theorem State.skipOnKey_of_line {k : Reg} (h : b.toNat = k.toNat) : s.skipOnKey i b c = s.skipIf (s.key k == c) := by
  simp only [State.skipOnKey, h, keyLine?_toNat]

theorem State.skipOnKey_of_invalid (h : 0xF < b.toNat) :
    s.skipOnKey i b c = s.report (.invalidKeyIndex s.insnAddr (encode i) b) := by
  simp only [State.skipOnKey, keyLine?_none h]

theorem exec_skpVx {x : Reg} : exec (.skpVx x) s = .next (s.skipOnKey (.skpVx x) (s.reg x) true) := rfl

theorem exec_sknpVx {x : Reg} : exec (.sknpVx x) s = .next (s.skipOnKey (.sknpVx x) (s.reg x) false) := rfl

/-- Settles O41: a valid index makes each key test a skip on its line, an invalid one makes it a report. -/
theorem keySkipsTestTheLine : Obligations.KeySkipsTestTheLine := by
  unfold Obligations.KeySkipsTestTheLine
  refine ⟨fun p w hw => decodeWord_of_key_mask hw rfl, fun p w hw => decodeWord_of_key_mask hw rfl,
    fun x s => ⟨fun k hk => ⟨?_, ?_⟩, fun hinvalid => ⟨?_, ?_⟩⟩⟩
  · refine ⟨s.skipIf (s.key k == true), by rw [exec_skpVx, State.skipOnKey_of_line hk], ?_, State.skipIf_sameBut⟩
    rw [State.skipIf_pc, beq_true]
  · refine ⟨s.skipIf (s.key k == false), by rw [exec_sknpVx, State.skipOnKey_of_line hk], ?_, State.skipIf_sameBut⟩
    cases hkey : s.key k <;> simp [State.skipIf_pc]
  · exact ⟨_, exec_skpVx.trans (congrArg Host.Outcome.next (State.skipOnKey_of_invalid hinvalid)), rfl,
      State.report_sameBut (by simp)⟩
  · exact ⟨_, exec_sknpVx.trans (congrArg Host.Outcome.next (State.skipOnKey_of_invalid hinvalid)), rfl,
      State.report_sameBut (by simp)⟩

/-- Settles O42: the wait is recorded in the mode and its target register, whatever the key lines hold. -/
theorem keyWaitRecordsItsTarget : Obligations.KeyWaitRecordsItsTarget := by
  unfold Obligations.KeyWaitRecordsItsTarget
  refine ⟨fun p w hw => decodeWord_of_misc_mask hw rfl, fun x s => ?_⟩
  exact ⟨_, rfl, rfl, rfl, sameBut_trans (State.setMode_sameBut (by simp)) (State.setWaitReg_sameBut (by simp))⟩

end Sys2Proof.Machine
end

section
/-! SUPPORT. What no instruction does: the frame of every instruction over the pieces of the state and over the registers
(R22, R23, R26, R41). -/

namespace Sys2Proof.Machine

variable {s t : State} {i : Instr} {x : Reg} {b : Byte} {c : Bool} {ps : List Piece}

theorem State.skipOnKey_sameBut (hpc : .pc ∈ ps) (hd : .diag ∈ ps) : sameBut ps s (s.skipOnKey i b c) := by
  unfold State.skipOnKey
  split
  · rw [State.skipIf_eq]
    exact State.setPc_sameBut hpc
  · exact State.report_sameBut hd

theorem sameBut_refl : sameBut ps s s := by
  intro p _
  cases p with
  | mem | v | keys => exact fun _ => rfl
  | fb => exact fun _ _ => rfl
  | _ => rfl

theorem exec_ret_sameBut (h : exec .ret s = .next t) : sameBut [.pc, .sp, .halted] s t := by
  rcases Nat.eq_zero_or_pos s.sp.val with hsp | hsp
  · cases (exec_ret_of_empty hsp).symm.trans h
    exact sameBut_mono State.raiseFatal_sameBut (by simp)
  · obtain ⟨a, n, hexec, -, -⟩ := exec_ret_of_pos hsp
    cases hexec.symm.trans h
    exact sameBut_trans (State.setStack_same_sameBut (by simp)) (State.setPc_sameBut (by simp))

/-- The stack has room, or it is full. -/
theorem State.sp_cases (s : State) : s.sp.val < 16 ∨ s.sp.val = 16 := by
  have := s.sp.isLt
  omega

theorem exec_call_sameBut {nnn : Addr} (h : exec (.call nnn) s = .next t) : sameBut [.pc, .stack, .sp, .halted] s t := by
  rcases s.sp_cases with hsp | hsp
  · obtain ⟨k, n, hexec, -⟩ := exec_call_of_room (nnn := nnn) hsp
    cases hexec.symm.trans h
    exact sameBut_trans (State.setStack_sameBut (by simp) (by simp)) (State.setPc_sameBut (by simp))
  · cases (exec_call_of_full hsp).symm.trans h
    exact sameBut_mono State.raiseFatal_sameBut (by simp)

theorem exec_ldVxMem_sameBut (h : exec (.ldVxMem x) s = .next t) : sameBut [.v, .diag] s t := by
  rcases Nat.lt_or_ge (s.iReg.toNat + x.toNat) 4096 with hin | hout
  · obtain ⟨bs, hexec, -⟩ := exec_ldVxMem_loads hin
    cases hexec.symm.trans h
    exact State.setRegsFrom_sameBut (by simp)
  · cases (exec_ldVxMem_reports hout).symm.trans h
    exact State.report_sameBut (by simp)

/-- The frame of every instruction: what its row of `piecesWritten` does not name stays. -/
theorem exec_sameBut (h : exec i s = .next t) : sameBut (piecesWritten i) s t := by
  cases i with
  | ret => exact exec_ret_sameBut h
  | call => exact exec_call_sameBut h
  | jp | jpV0Nnn => cases h; exact State.setPc_sameBut List.mem_cons_self
  | seVxKk | sneVxKk | seVxVy | sneVxVy => cases h; exact State.skipIf_sameBut
  | skpVx | sknpVx => cases h; exact State.skipOnKey_sameBut (by simp [piecesWritten]) (by simp [piecesWritten])
  | ldVxKk | addVxKk | ldVxVy | ldVxDT => cases h; exact State.setReg_sameBut List.mem_cons_self
  | orVxVy | andVxVy | xorVxVy => cases h; exact State.setLogicResult_sameBut List.mem_cons_self
  | addVxVy | subVxVy | shrVx | subnVxVy | shlVx => cases h; exact State.setResultThenFlag_sameBut List.mem_cons_self
  | rndVxKk =>
    cases h
    exact sameBut_trans (State.setReg_sameBut (by simp [piecesWritten])) (State.bumpDraws_sameBut (by simp [piecesWritten]))
  | cls =>
    cases h
    exact sameBut_trans (State.setFb_sameBut (by simp [piecesWritten])) (State.setDirty_sameBut (by simp [piecesWritten]))
  | drwVxVyN =>
    cases h
    exact sameBut_trans (sameBut_trans (State.setFb_sameBut (by simp [piecesWritten]))
      (State.setDirty_sameBut (by simp [piecesWritten]))) (State.setReg_sameBut (by simp [piecesWritten]))
  | ldINnn | addIVx | ldFVx => cases h; exact State.setI_sameBut List.mem_cons_self
  | ldBVx | ldMemVx => cases h; exact State.storeOrReport_sameBut (by simp [piecesWritten]) (by simp [piecesWritten])
  | ldVxMem => exact exec_ldVxMem_sameBut h
  | ldVxK =>
    cases h
    exact sameBut_trans (State.setMode_sameBut (by simp [piecesWritten])) (State.setWaitReg_sameBut (by simp [piecesWritten]))
  | ldDTVx => cases h; exact State.setDT_sameBut List.mem_cons_self
  | ldSTVx => cases h; exact State.setST_sameBut List.mem_cons_self

/-- Settles O51: each meaning is a chain of writes whose frames are known. -/
theorem instructionsWriteOnlyTheirPieces : Obligations.InstructionsWriteOnlyTheirPieces := by
  unfold Obligations.InstructionsWriteOnlyTheirPieces
  exact fun i s t h => exec_sameBut h

/-- The registers a bulk load writes are those up to x (R155). -/
theorem mem_regsWritten_ldVxMem {p : Params} {z : Reg} (h : z.toNat ≤ x.toNat) : z ∈ regsWritten p (.ldVxMem x) :=
  List.mem_map.2 ⟨z.toNat, List.mem_range.2 (by omega), BitVec.ofNat_toNat 4 z⟩

theorem exec_ldVxMem_regsBut (h : exec (.ldVxMem x) s = .next t) : regsBut (regsWritten s.params (.ldVxMem x)) s t := by
  intro z hz
  rcases Nat.lt_or_ge (s.iReg.toNat + x.toNat) 4096 with hin | hout
  · obtain ⟨bs, hexec, hlen, -⟩ := exec_ldVxMem_loads hin
    cases hexec.symm.trans h
    rw [State.reg_setRegsFrom_zero hlen, if_neg fun hle => hz (mem_regsWritten_ldVxMem hle)]
  · cases (exec_ldVxMem_reports hout).symm.trans h
    rfl

/-- Settles O52: an instruction that does not write V leaves every register by its frame, and each of the others writes the
registers of its row. -/
theorem instructionsWriteOnlyTheirRegisters : Obligations.InstructionsWriteOnlyTheirRegisters := by
  unfold Obligations.InstructionsWriteOnlyTheirRegisters
  intro i s t h
  by_cases hv : .v ∈ piecesWritten i
  · cases i with
    | ldVxKk | addVxKk | ldVxVy | ldVxDT | rndVxKk => cases h; exact State.setReg_regsBut
    | drwVxVyN => cases h; exact State.setReg_regsBut
    | orVxVy | andVxVy | xorVxVy => cases h; exact State.setLogicResult_regsBut
    | addVxVy | subVxVy | shrVx | subnVxVy | shlVx => cases h; exact State.setResultThenFlag_regsBut
    | ldVxMem => exact exec_ldVxMem_regsBut h
    | _ => simp [piecesWritten] at hv
  · exact fun x _ => exec_sameBut h .v hv x

end Sys2Proof.Machine
end

section
/-! SUPPORT. Fetching after a store, and the step by what stands at pc (R52, R65, R70, R79). -/

namespace Sys2Proof.Machine

variable {s t : State} {hi lo : Byte} {w : Word} {i : Instr}

/-- Two bytes stored at pc are the next word fetched (R65). -/
theorem State.fetch16?_of_storeBytes (h : s.storeBytes? s.pc.toNat [hi, lo] = some t) :
    t.fetch16? = some (wordOfBytes hi lo) := by
  obtain ⟨hfits, rfl⟩ := State.storeBytes?_eq_some h
  apply State.fetch16?_of_bytes <;> simp [State.memRead?_writeBytes hfits]

/-- Settles O14: the word fetched is that of the two bytes stored, whose bytes are the two again. -/
theorem fetchSeesTheLatestStore : Obligations.FetchSeesTheLatestStore := by
  unfold Obligations.FetchSeesTheLatestStore
  exact fun s t hi lo h =>
    ⟨_, State.fetch16?_of_storeBytes h, wordOfBytes_toNat hi lo, bytesOfWord_wordOfBytes hi lo⟩

theorem tableWordBytes_toNat : tableWordBytes 16 w.toNat = bytesOfWord w := by
  rw [tableWordBytes, Nat.mod_eq_of_lt w.isLt, BitVec.ofNat_toNat, BitVec.setWidth_eq]

/-- A word placed at pc is fetched next, and only memory has changed. -/
theorem State.withFetchWord_fetch16? (h : s.pc.toNat ≤ 4094) :
    (s.withFetchWord 16 w.toNat).fetch16? = some w ∧ sameBut [.mem] s (s.withFetchWord 16 w.toNat) := by
  obtain ⟨hi, lo, hbytes, hword⟩ := wordOfBytes_bytesOfWord w
  have hstore : s.storeBytes? s.pc.toNat [hi, lo] = some (s.writeBytes s.pc.toNat [hi, lo]) :=
    State.storeBytes?_some (by simp only [List.length_cons, List.length_nil]; omega)
  have hplaced : s.withFetchWord 16 w.toNat = s.writeBytes s.pc.toNat [hi, lo] := by
    rw [State.withFetchWord, State.placeAtPc, tableWordBytes_toNat, hbytes, hstore, Option.getD_some]
  rw [hplaced]
  exact ⟨hword ▸ State.fetch16?_of_storeBytes hstore, State.writeBytes_sameBut (by simp)⟩

/-- Settles O15: the placed word is fetched and decodes to its instruction, in a session that still runs. -/
theorem placedWordRuns : Obligations.PlacedWordRuns := by
  unfold Obligations.PlacedWordRuns
  intro s i hh hm hpc hwf
  obtain ⟨hfetch, hframe⟩ := State.withFetchWord_fetch16? (w := encode i) hpc
  have hparams : (s.withFetchWord 16 (encode i).toNat).params = s.params := hframe .params (by simp)
  exact step_run ((hframe .halted (by simp)).trans hh) ((hframe .mode (by simp)).trans hm) hfetch
    (by rw [hparams]; exact decodeWord_encode hwf)

/-- Settles O5: the bytes are those the fetch reads, and the decoder of bytes is that of their word. -/
theorem stepRunsTheDecodedInstruction : Obligations.StepRunsTheDecodedInstruction := by
  unfold Obligations.StepRunsTheDecodedInstruction
  intro s hi lo i hh hm hhi hlo hdecode
  exact step_run hh hm (State.fetch16?_of_bytes hhi hlo) ((decode_two_ok hi lo).1 hdecode)

/-- After the fetch the address of the instruction is the pc before it (R25, R71). -/
theorem State.advance_insnAddr : s.advance.insnAddr = s.pc := BitVec.add_sub_cancel s.pc 2

/-- Settles O7: a report at the advanced pc, whose address is the pc before. -/
theorem unknownWordIsReportedAndSkipped : Obligations.UnknownWordIsReportedAndSkipped := by
  unfold Obligations.UnknownWordIsReportedAndSkipped
  intro s hi lo why hh hm hhi hlo hunknown
  refine ⟨_, step_unknown hh hm (State.fetch16?_of_bytes hhi hlo) hunknown, rfl, ?_,
    sameBut_trans (State.setPc_sameBut (by simp)) (State.report_sameBut (by simp))⟩
  rw [State.skipUnknown, State.report_diag, State.advance_insnAddr]
  rfl

/-- Settles O49: every operation is guarded by halted. -/
theorem endedSessionRefusesEveryOperation : Obligations.EndedSessionRefusesEveryOperation := by
  unfold Obligations.EndedSessionRefusesEveryOperation
  exact fun o s k h => applyOp_of_halted h

/-- Settles O8: halted is looked at first, and then the mode. -/
theorem stepChecksHaltedThenWaiting : Obligations.StepChecksHaltedThenWaiting := by
  unfold Obligations.StepChecksHaltedThenWaiting
  exact fun s => ⟨fun k h => applyOp_of_halted (o := .step) h, step_waiting⟩

end Sys2Proof.Machine
end

section
/-! SUPPORT. The host's operations on the timers, the keys, the program and the dirty flag (R230 to R235). -/

namespace Sys2Proof.Machine

variable {s t : State} {b : Byte} {k : Reg} {j n : Nat} {c : Bool} {ps : List Piece}

/-! Timers. -/

theorem countDown_toNat : (countDown b).toNat = b.toNat - 1 := by
  unfold countDown
  split
  · rw [BitVec.toNat_sub_of_le (by rw [BitVec.le_def]; exact ‹b.toNat > 0›)]
    rfl
  · omega

/-- Settles O44: a tick lowers each timer by one, and n of them by n. -/
theorem ticksCountDownToZero : Obligations.TicksCountDownToZero := by
  unfold Obligations.TicksCountDownToZero
  intro n
  induction n with
  | zero => exact fun s _ => ⟨s, rfl, rfl, rfl, sameBut_refl⟩
  | succ n ih =>
    intro s hh
    obtain ⟨t, hrun, hdt, hst, hframe⟩ := ih ((s.setDT (countDown s.dt)).setST (countDown s.st)) hh
    refine ⟨t, ?_, ?_, ?_, sameBut_trans
      (sameBut_trans (State.setDT_sameBut (by simp)) (State.setST_sameBut (by simp))) hframe⟩
    · rw [List.replicate_succ, runOps, applyOp, tick, unlessHalted_none hh]
      exact hrun
    · rw [hdt, State.setST_dt, State.setDT_dt, countDown_toNat, Nat.sub_sub, Nat.add_comm]
    · rw [hst, State.setST_st, countDown_toNat, Nat.sub_sub, Nat.add_comm]

/-- Settles O48: the tone is read off ST, and clearDirty is one write that halted guards. -/
theorem soundReadAndClearDirty : Obligations.SoundReadAndClearDirty := by
  unfold Obligations.SoundReadAndClearDirty
  exact fun s => ⟨soundActive_iff, fun h => ⟨_, unlessHalted_none h, rfl, State.setDirty_sameBut (by simp)⟩,
    fun k h => unlessHalted_some h⟩

/-! Keys. -/

theorem State.setKey_sameBut (h : .keys ∈ ps) : sameBut ps s (s.setKey k c) := State.setKeys_sameBut h

theorem State.endWait_running (h : s.mode = .running) : s.endWait j = s := by
  simp only [State.endWait, h]

theorem State.endWait_awaitingKey (h : s.mode = .awaitingKey) :
    s.endWait j = (s.setReg s.waitReg (BitVec.ofNat 8 j)).setMode .running := by
  simp only [State.endWait, h]

theorem State.endWait_sameBut (hv : .v ∈ ps) (hm : .mode ∈ ps) : sameBut ps s (s.endWait j) := by
  cases h : s.mode with
  | running =>
    rw [State.endWait_running h]
    exact sameBut_refl
  | awaitingKey =>
    rw [State.endWait_awaitingKey h]
    exact sameBut_trans (State.setReg_sameBut hv) (State.setMode_sameBut hm)

theorem keyPress_of_line (h : s.halted = none) :
    keyPress k.toNat s = .next ((s.setKey k true).endWait k.toNat) := by
  rw [keyPress, unlessHalted_none h, keyLine?_toNat]

theorem keyPress_of_invalid (h : s.halted = none) (hj : 0xF < j) :
    keyPress j s = .next (s.report (.invalidKeyEvent j)) := by
  rw [keyPress, unlessHalted_none h, keyLine?_none hj]

theorem keyRelease_of_line (h : s.halted = none) : keyRelease k.toNat s = .next (s.setKey k false) := by
  rw [keyRelease, unlessHalted_none h, keyLine?_toNat]

theorem keyRelease_of_invalid (h : s.halted = none) (hj : 0xF < j) :
    keyRelease j s = .next (s.report (.invalidKeyEvent j)) := by
  rw [keyRelease, unlessHalted_none h, keyLine?_none hj]

/-- A key's index fits the register that the wait writes. -/
theorem key_index_toNat : (BitVec.ofNat 8 k.toNat).toNat = k.toNat := by
  have := k.isLt
  rw [BitVec.toNat_ofNat]
  omega

/-- Settles O45: a valid press is a write of the line followed by the end of a wait, if one is pending. -/
theorem keyPressSetsLineAndEndsWait : Obligations.KeyPressSetsLineAndEndsWait := by
  unfold Obligations.KeyPressSetsLineAndEndsWait
  refine fun s hh => ⟨fun k => ?_, fun j hj => ⟨_, keyPress_of_invalid hh hj, rfl, State.report_sameBut (by simp)⟩⟩
  have hkeys : ∀ j, ((s.setKey k true).endWait k.toNat).key j = (s.setKey k true).key j :=
    State.endWait_sameBut (ps := [.v, .mode]) (by simp) (by simp) .keys (by simp)
  refine ⟨_, keyPress_of_line hh, ?_, fun j hj => ?_, fun hm => ?_, fun hm => ?_⟩
  · rw [hkeys, State.key_setKey, if_pos rfl]
  · rw [hkeys, State.key_setKey, if_neg hj]
  · rw [State.endWait_running (show (s.setKey k true).mode = .running from hm)]
    exact State.setKey_sameBut (by simp)
  · rw [State.endWait_awaitingKey (show (s.setKey k true).mode = .awaitingKey from hm)]
    refine ⟨rfl, ?_, State.setReg_regsBut, sameBut_trans (State.setKey_sameBut (by simp))
      (sameBut_trans (State.setReg_sameBut (by simp)) (State.setMode_sameBut (by simp)))⟩
    exact (congrArg BitVec.toNat State.reg_setReg_same).trans key_index_toNat

/-- Settles O46: a valid release is a write of the line, an invalid one a report. -/
theorem keyReleaseOnlyClearsLine : Obligations.KeyReleaseOnlyClearsLine := by
  unfold Obligations.KeyReleaseOnlyClearsLine
  refine fun s hh => ⟨fun k => ⟨_, keyRelease_of_line hh, ?_, fun j hj => ?_, State.setKey_sameBut (by simp)⟩,
    fun j hj => ⟨_, keyRelease_of_invalid hh hj, rfl, State.report_sameBut (by simp)⟩⟩
  · rw [State.key_setKey, if_pos rfl]
  · rw [State.key_setKey, if_neg hj]

/-! The program. -/

theorem State.loadImage_ok {bs : List Byte} (h : bs.length ≤ 3584) :
    s.loadImage bs = (s.writeBytes 0x200 bs, .loadOk) := if_neg (Nat.not_lt.2 h)

theorem State.loadImage_tooLarge {bs : List Byte} (h : 3584 < bs.length) :
    s.loadImage bs = (s, .loadTooLarge) := if_pos h

/-- Settles O47: an image that fits is written from 0x200 on, and one that does not is not written at all. -/
theorem loadCopiesTheImageOrFails : Obligations.LoadCopiesTheImageOrFails := by
  unfold Obligations.LoadCopiesTheImageOrFails
  refine fun bs s hh => ⟨fun hfits => ?_, fun hlarge => ?_, unlessHalted_none hh⟩
  · have hin : 0x200 + bs.length ≤ 4096 := by omega
    refine ⟨s.writeBytes 0x200 bs, by rw [load, unlessHalted_none hh, State.loadImage_ok hfits], fun j c hj => ?_,
      State.writeBytes_memBut hin, State.writeBytes_sameBut (by simp)⟩
    obtain ⟨hlt, -⟩ := List.getElem?_eq_some_iff.1 hj
    rw [State.memRead?_writeBytes hin, if_pos (by omega), Nat.add_sub_cancel_left, hj]
  · rw [load, unlessHalted_none hh, State.loadImage_tooLarge hlarge]

end Sys2Proof.Machine
end

section
/-! SUPPORT. Construction (R40, R250). -/

namespace Sys2Proof.Machine

variable {p : Params} {a : Nat}

/-- Right after construction an address reads as its reset contents (R40). -/
theorem constructed_memRead? (h : a < 4096) : (State.constructed p).memRead? a = some (p.resetByte a) :=
  State.memRead?_some h

theorem resetByte_glyph {b : Byte} (h : p.glyphs[a]? = some b) : p.resetByte (0x050 + a) = b := by
  obtain ⟨hlt, rfl⟩ := Vector.getElem?_eq_some_iff.1 h
  simp [Params.resetByte, show 80 + a < 160 by omega]

theorem resetByte_outside (h : ¬(0x050 ≤ a ∧ a ≤ 0x09F)) : p.resetByte a = 0 :=
  dif_neg fun hglyph => h ⟨hglyph.1, Nat.le_of_lt_succ hglyph.2⟩

theorem constructed_stack {j : Nat} {e : Word} (h : (State.constructed p).stack[j]? = some e) : e = 0 := by
  obtain ⟨hlt, rfl⟩ := Vector.getElem?_eq_some_iff.1 h
  exact Vector.getElem_replicate hlt

/-- Settles O1: the layout of R7 is checked by evaluation, memory lists no cell, and every other field is its literal. -/
theorem constructionLeavesResetValues : Obligations.ConstructionLeavesResetValues := by
  unfold Obligations.ConstructionLeavesResetValues
  refine ⟨rfl, fun p => ⟨if_pos (by decide), fun a b h => ?_, fun a ha hout => ?_, fun a ha => State.memRead?_none ha,
    fun x => Vector.getElem_replicate _, rfl, rfl, fun j e h => constructed_stack h, rfl, rfl, rfl,
    fun px py => fbGet_dark, rfl, fun k => Vector.getElem_replicate _, rfl, rfl, rfl, rfl⟩⟩
  · obtain ⟨hlt, -⟩ := Vector.getElem?_eq_some_iff.1 h
    rw [constructed_memRead? (by omega), resetByte_glyph h]
  · rw [constructed_memRead? ha, resetByte_outside hout]

/-- Settles O2: no cell is listed, pc is 0x200, the stack holds zeros, no fatal error and no record is there. -/
theorem constructedStateMeetsInvariant : Obligations.ConstructedStateMeetsInvariant := by
  unfold Obligations.ConstructedStateMeetsInvariant
  refine fun p => ⟨rfl, (by decide : (0x200 : Word).toNat ≤ 0x10FE), fun j e h => ?_, trivial, fun d hd => ?_⟩
  · rw [constructed_stack h]
    exact Nat.zero_le _
  · cases hd

end Sys2Proof.Machine
end

section
/-! SUPPORT. The inversion lemmas of the operations: what the host's operations write, when an instruction halts the session,
and what it reports (R210, R212, R230 to R236). -/

namespace Sys2Proof.Machine

variable {s t : State} {o : Op} {i : Instr} {b : Byte} {c : Bool} {x : Reg}

/-! The host's operations. -/

/-- What a host operation other than `step` leaves of a session that has not ended, one rule per outcome. -/
inductive HostWrites (s : State) : Op → State → Prop
  | tick : HostWrites s .tick ((s.setDT (countDown s.dt)).setST (countDown s.st))
  | press (k : Reg) : HostWrites s (.keyPress k.toNat) ((s.setKey k true).endWait k.toNat)
  | invalidPress {j : Nat} (h : 0xF < j) : HostWrites s (.keyPress j) (s.report (.invalidKeyEvent j))
  | release (k : Reg) : HostWrites s (.keyRelease k.toNat) (s.setKey k false)
  | invalidRelease {j : Nat} (h : 0xF < j) : HostWrites s (.keyRelease j) (s.report (.invalidKeyEvent j))
  | loaded {bs : List Byte} (h : bs.length ≤ 3584) : HostWrites s (.load bs) (s.writeBytes 0x200 bs)
  | tooLarge {bs : List Byte} (h : 3584 < bs.length) : HostWrites s (.load bs) s
  | unreadable : HostWrites s .loadUnreadable s
  | clearDirty : HostWrites s .clearDirty (s.setDirty false)
  | setPixel (px py : Nat) : HostWrites s (.setPixel px py) (s.setFb (fbFlip s.fb px py))

/-- A key index is invalid or names a line (R192). -/
theorem key_index_cases (j : Nat) : 0xF < j ∨ ∃ k : Reg, j = k.toNat := by
  rcases Nat.lt_or_ge 0xF j with h | h
  · exact .inl h
  · exact .inr ⟨BitVec.ofNat 4 j, by rw [BitVec.toNat_ofNat]; omega⟩

theorem live_of_applyOp (h : applyOp o s = .next t) : s.halted = none := by
  cases hh : s.halted with
  | none => rfl
  | some k =>
    rw [applyOp_of_halted hh] at h
    cases h

theorem hostWrites_of_applyOp (ho : o ≠ .step) (h : applyOp o s = .next t) : HostWrites s o t := by
  have hh := live_of_applyOp h
  cases o with
  | step => exact absurd rfl ho
  | tick =>
    cases (unlessHalted_none hh).symm.trans h
    exact .tick
  | keyPress j =>
    rcases key_index_cases j with hj | ⟨k, rfl⟩
    · cases (keyPress_of_invalid hh hj).symm.trans h
      exact .invalidPress hj
    · cases (keyPress_of_line hh).symm.trans h
      exact .press k
  | keyRelease j =>
    rcases key_index_cases j with hj | ⟨k, rfl⟩
    · cases (keyRelease_of_invalid hh hj).symm.trans h
      exact .invalidRelease hj
    · cases (keyRelease_of_line hh).symm.trans h
      exact .release k
  | load bs =>
    rcases Nat.lt_or_ge 3584 bs.length with hlarge | hfits
    · rw [applyOp, load, unlessHalted_none hh, State.loadImage_tooLarge hlarge] at h
      cases h
      exact .tooLarge hlarge
    · rw [applyOp, load, unlessHalted_none hh, State.loadImage_ok hfits] at h
      cases h
      exact .loaded hfits
  | loadUnreadable =>
    rw [applyOp, loadUnreadable, unlessHalted_none hh] at h
    cases h
    exact .unreadable
  | clearDirty =>
    cases (unlessHalted_none hh).symm.trans h
    exact .clearDirty
  | setPixel px py =>
    rw [applyOp, setPixel, unlessHalted_none hh] at h
    cases h
    exact .setPixel px py

/-- Without a valid press a host operation leaves the registers, pc, the stack and the engine's state alone. -/
theorem HostWrites.sameBut_of_no_press (hw : HostWrites s o t) (ho : ∀ j, o = .keyPress j → 0xF < j) :
    sameBut [.mem, .dt, .st, .fb, .dirty, .keys, .diag] s t := by
  cases hw with
  | tick => exact sameBut_trans (State.setDT_sameBut (by simp)) (State.setST_sameBut (by simp))
  | press k => exact absurd (ho _ rfl) (Nat.not_lt.2 (Nat.le_of_lt_succ k.isLt))
  | invalidPress | invalidRelease => exact State.report_sameBut (by simp)
  | release => exact State.setKey_sameBut (by simp)
  | loaded => exact State.writeBytes_sameBut (by simp)
  | tooLarge | unreadable => exact sameBut_refl
  | clearDirty => exact State.setDirty_sameBut (by simp)
  | setPixel => exact State.setFb_sameBut (by simp)

/-- A press can write the waiting register and end the wait besides (R232). -/
theorem HostWrites.sameBut (hw : HostWrites s o t) :
    sameBut [.v, .mode, .mem, .dt, .st, .fb, .dirty, .keys, .diag] s t := by
  by_cases ho : ∀ j, o = .keyPress j → 0xF < j
  · exact sameBut_mono (hw.sameBut_of_no_press ho) (by simp)
  · cases hw with
    | press k => exact sameBut_trans (State.setKey_sameBut (by simp)) (State.endWait_sameBut (by simp) (by simp))
    | invalidPress h => exact absurd (fun _ he => Op.keyPress.inj he ▸ h) ho
    | _ => exact absurd (fun _ he => by cases he) ho

theorem HostWrites.diag (hw : HostWrites s o t) :
    t.diag = s.diag ∨ ∃ j, 0xF < j ∧ t.diag = s.diag ++ [.invalidKeyEvent j] := by
  cases hw with
  | invalidPress h | invalidRelease h => exact .inr ⟨_, h, rfl⟩
  | press k => exact .inl (State.endWait_sameBut (ps := [.v, .mode]) (by simp) (by simp) .diag (by simp))
  | loaded => exact .inl (State.writeBytes_sameBut (ps := [.mem]) (by simp) .diag (by simp))
  | _ => exact .inl rfl

/-! What an instruction halts. -/

/-- The instructions that name halted among what they write are RET and CALL (R210). -/
theorem halted_mem_piecesWritten : .halted ∈ piecesWritten i ↔ i = .ret ∨ ∃ nnn, i = .call nnn := by
  cases i <;> simp [piecesWritten]

theorem exec_ret_halted_cases (h : exec .ret s = .next t) :
    t.halted = s.halted ∨ (s.sp.val = 0 ∧ t = s.raiseFatal .stackUnderflow) := by
  rcases Nat.eq_zero_or_pos s.sp.val with hsp | hsp
  · exact .inr ⟨hsp, Host.Outcome.next.inj (h.symm.trans (exec_ret_of_empty hsp))⟩
  · obtain ⟨a, n, hexec, -, -⟩ := exec_ret_of_pos hsp
    cases hexec.symm.trans h
    exact .inl rfl

theorem exec_call_halted_cases {nnn : Addr} (h : exec (.call nnn) s = .next t) :
    t.halted = s.halted ∨ (s.sp.val = 16 ∧ t = s.raiseFatal .stackOverflow) := by
  rcases s.sp_cases with hsp | hsp
  · obtain ⟨k, n, hexec, -⟩ := exec_call_of_room (nnn := nnn) hsp
    cases hexec.symm.trans h
    exact .inl rfl
  · exact .inr ⟨hsp, Host.Outcome.next.inj (h.symm.trans (exec_call_of_full hsp))⟩

/-- An instruction halts the session only as CALL on a full stack or RET on an empty one, and then writes nothing else. -/
theorem exec_halted_cases (h : exec i s = .next t) :
    t.halted = s.halted ∨
      ((∃ nnn, i = .call nnn) ∧ s.sp.val = 16 ∧ t = s.raiseFatal .stackOverflow) ∨
      (i = .ret ∧ s.sp.val = 0 ∧ t = s.raiseFatal .stackUnderflow) := by
  by_cases hw : .halted ∈ piecesWritten i
  · rcases halted_mem_piecesWritten.1 hw with rfl | ⟨nnn, rfl⟩
    · exact (exec_ret_halted_cases h).imp_right fun hfatal => .inr ⟨rfl, hfatal⟩
    · exact (exec_call_halted_cases h).imp_right fun hfatal => .inl ⟨⟨nnn, rfl⟩, hfatal⟩
  · exact .inl (exec_sameBut h .halted hw)

/-! What an instruction reports. -/

/-- The state after an instruction holds the same records as before, or differs from it by one record whose condition of R212
holds wherever the instruction can stand. -/
def ReportsJustified (s t : State) : Prop :=
  t.diag = s.diag ∨ ∃ d, t = s.report d ∧ (s.insnAddr.toNat ≤ 4094 → ∀ p, d.justified p)

theorem State.skipOnKey_reports : ReportsJustified s (s.skipOnKey i b c) := by
  rcases key_index_cases b.toNat with hinvalid | ⟨k, hk⟩
  · exact .inr ⟨_, State.skipOnKey_of_invalid hinvalid, fun haddr _ => ⟨haddr, hinvalid⟩⟩
  · rw [State.skipOnKey_of_line hk]
    exact .inl (State.skipIf_sameBut .diag (by simp))

theorem exec_ldBVx_reports_justified (h : exec (.ldBVx x) s = .next t) : ReportsJustified s t := by
  rcases Nat.lt_or_ge (s.iReg.toNat + 2) 4096 with hin | hout
  · cases (exec_ldBVx_stores hin).symm.trans h
    exact .inl (State.writeBytes_sameBut (ps := [.mem]) (by simp) .diag (by simp))
  · cases (exec_ldBVx_reports hout).symm.trans h
    exact .inr ⟨_, rfl, fun haddr _ => ⟨haddr, hout⟩⟩

theorem exec_ldMemVx_reports_justified (h : exec (.ldMemVx x) s = .next t) : ReportsJustified s t := by
  rcases Nat.lt_or_ge (s.iReg.toNat + x.toNat) 4096 with hin | hout
  · cases (exec_ldMemVx_stores hin).symm.trans h
    exact .inl (State.writeBytes_sameBut (ps := [.mem]) (by simp) .diag (by simp))
  · cases (exec_ldMemVx_reports hout).symm.trans h
    exact .inr ⟨_, rfl, fun haddr _ => ⟨haddr, Nat.le_add_left _ _, x.isLt, hout⟩⟩

theorem exec_ldVxMem_reports_justified (h : exec (.ldVxMem x) s = .next t) : ReportsJustified s t := by
  rcases Nat.lt_or_ge (s.iReg.toNat + x.toNat) 4096 with hin | hout
  · obtain ⟨bs, hexec, -⟩ := exec_ldVxMem_loads hin
    cases hexec.symm.trans h
    exact .inl (State.setRegsFrom_sameBut (ps := [.v]) (by simp) .diag (by simp))
  · cases (exec_ldVxMem_reports hout).symm.trans h
    exact .inr ⟨_, rfl, fun haddr _ => ⟨haddr, Nat.le_add_left _ _, x.isLt, hout⟩⟩

theorem exec_reports_justified (h : exec i s = .next t) : ReportsJustified s t := by
  by_cases hw : .diag ∈ piecesWritten i
  · cases i with
    | skpVx | sknpVx => cases h; exact State.skipOnKey_reports
    | ldBVx => exact exec_ldBVx_reports_justified h
    | ldMemVx => exact exec_ldMemVx_reports_justified h
    | ldVxMem => exact exec_ldVxMem_reports_justified h
    | _ => simp [piecesWritten] at hw
  · exact .inl (exec_sameBut h .diag hw)

end Sys2Proof.Machine
end

section
/-! SUPPORT. Errors and the key wait over every operation (R194, R210 to R213, R232). -/

namespace Sys2Proof.Machine

variable {s t : State} {o : Op} {i : Instr} {d : Diag}

/-! Diagnostic records. -/

/-- At most one record is appended, and none by an operation that halts the session. -/
def AppendsAtMostOne (s t : State) : Prop :=
  ∃ d : List Diag, t.diag = s.diag ++ d ∧ d.length ≤ 1 ∧ (d = [] ∨ t.halted = none)

theorem appendsAtMostOne_of_eq (h : t.diag = s.diag) : AppendsAtMostOne s t :=
  ⟨[], by rw [h, List.append_nil], Nat.zero_le 1, .inl rfl⟩

theorem appendsAtMostOne_of_record (h : t.diag = s.diag ++ [d]) (hh : t.halted = none) : AppendsAtMostOne s t :=
  ⟨[d], h, Nat.le_refl 1, .inr hh⟩

theorem exec_appendsAtMostOne (hh : s.halted = none) (h : exec i s = .next t) : AppendsAtMostOne s t := by
  rcases exec_reports_justified h with hdiag | ⟨d, rfl, -⟩
  · exact appendsAtMostOne_of_eq hdiag
  · exact appendsAtMostOne_of_record rfl hh

theorem step_appendsAtMostOne (h : step s = .next t) : AppendsAtMostOne s t := by
  obtain ⟨hh, ⟨-, rfl⟩ | ⟨-, -, rfl⟩ | ⟨-, -, w, -, ⟨why, -, -, rfl⟩ | ⟨i, -, -, hexec⟩⟩⟩ := step_cases h
  · exact appendsAtMostOne_of_eq rfl
  · exact appendsAtMostOne_of_eq rfl
  · exact appendsAtMostOne_of_record rfl hh
  · exact exec_appendsAtMostOne (s := s.advance) hh hexec

/-- Settles O54: an instruction or a host operation keeps the records or adds one, and what halts the session reports nothing. -/
theorem diagnosticsAreAppendedOneAtATime : Obligations.DiagnosticsAreAppendedOneAtATime := by
  unfold Obligations.DiagnosticsAreAppendedOneAtATime
  intro o s t h
  by_cases ho : o = .step
  · subst ho
    exact step_appendsAtMostOne h
  · have hw := hostWrites_of_applyOp ho h
    rcases hw.diag with hdiag | ⟨j, -, hdiag⟩
    · exact appendsAtMostOne_of_eq hdiag
    · exact appendsAtMostOne_of_record hdiag ((hw.sameBut .halted (by simp)).trans (live_of_applyOp h))

/-! Fatal errors. -/

/-- Settles O55: no host operation writes halted, and a step does so only at a failed fetch, at CALL on a full stack and at RET
on an empty one. -/
theorem fatalErrorsArePrecise : Obligations.FatalErrorsArePrecise := by
  unfold Obligations.FatalErrorsArePrecise
  intro o s t k h hk
  have hh := live_of_applyOp h
  by_cases ho : o = .step
  · subst ho
    obtain ⟨-, ⟨-, rfl⟩ | ⟨hm, hpc, rfl⟩ | ⟨hm, -, w, -, ⟨_, -, -, rfl⟩ | ⟨i, -, hf, hexec⟩⟩⟩ := step_cases h
    · cases hh.symm.trans hk
    · cases hk
      exact ⟨rfl, hh, hm, hpc, State.raiseFatal_sameBut⟩
    · cases hh.symm.trans hk
    · have hframe : ∀ k, sameBut [.pc, .halted] s (s.advance.raiseFatal k) := fun k =>
        sameBut_trans (State.setPc_sameBut (by simp)) (sameBut_mono State.raiseFatal_sameBut (by simp))
      rcases exec_halted_cases hexec with hsame | ⟨⟨nnn, rfl⟩, hsp, rfl⟩ | ⟨rfl, hsp, rfl⟩
      · cases hh.symm.trans (hsame.symm.trans hk)
      · cases hk
        exact ⟨rfl, hh, hm, hsp, ⟨nnn, hf⟩, rfl, hframe _⟩
      · cases hk
        exact ⟨rfl, hh, hm, hsp, hf, rfl, hframe _⟩
  · have hsame : t.halted = s.halted := (hostWrites_of_applyOp ho h).sameBut .halted (by simp)
    cases hh.symm.trans (hsame.symm.trans hk)

/-! The key wait. -/

theorem applyOp_keeps_wait (hm : s.mode = .awaitingKey) (ho : ∀ j, o = .keyPress j → 0xF < j)
    (h : applyOp o s = .next t) :
    t.mode = .awaitingKey ∧ t.waitReg = s.waitReg ∧ t.pc = s.pc ∧ ∀ x, t.reg x = s.reg x := by
  by_cases hstep : o = .step
  · subst hstep
    cases (step_waiting (live_of_applyOp h) hm).symm.trans h
    exact ⟨hm, rfl, rfl, fun _ => rfl⟩
  · have hframe := (hostWrites_of_applyOp hstep h).sameBut_of_no_press ho
    exact ⟨(hframe .mode (by simp)).trans hm, hframe .waitReg (by simp), hframe .pc (by simp), hframe .v (by simp)⟩

/-- What a run of operations that ends in a state began with. -/
theorem runOps_cons_next {os : List Op} (h : runOps (o :: os) s = .next t) :
    ∃ u, applyOp o s = .next u ∧ runOps os u = .next t := by
  rw [runOps] at h
  cases ho : applyOp o s with
  | next u => exact ⟨u, rfl, by rwa [ho] at h⟩
  | fault | refused => rw [ho] at h; cases h

/-- Settles O56: each operation of the list keeps the wait, by its frame. -/
theorem keyWaitLastsUntilAValidPress : Obligations.KeyWaitLastsUntilAValidPress := by
  unfold Obligations.KeyWaitLastsUntilAValidPress
  intro os
  induction os with
  | nil =>
    intro s t hm _ h
    cases h
    exact ⟨hm, rfl, rfl, fun _ => rfl⟩
  | cons o os ih =>
    intro s t hm ho h
    obtain ⟨u, hu, hrun⟩ := runOps_cons_next h
    obtain ⟨hmu, hwaitReg, hpc, hregs⟩ := applyOp_keeps_wait hm (fun j hj => ho j (by simp [hj])) hu
    obtain ⟨hmt, hwaitReg', hpc', hregs'⟩ := ih u t hmu (fun j hj => ho j (by simp [hj])) hrun
    exact ⟨hmt, hwaitReg'.trans hwaitReg, hpc'.trans hpc, fun x => (hregs' x).trans (hregs x)⟩

end Sys2Proof.Machine
end

section
/-! SUPPORT. The invariant: that instructions, steps and the host's operations keep each of its parts (R27, R210, R212). -/

namespace Sys2Proof.Machine

variable {s t : State} {o : Op} {i : Instr}

/-! Memory stays in canonical form. -/

theorem State.storeOrReport_memWf {a : Nat} {xs : List Byte} {d : Diag} (hs : s.memWf = true) :
    (s.storeOrReport a xs d).memWf = true := by
  rcases Nat.lt_or_ge 4096 (a + xs.length) with hout | hin
  · rw [State.storeOrReport_reports hout]
    exact hs
  · rw [State.storeOrReport_stores hin]
    exact State.memWf_writeBytes hs hin

theorem State.skipOnKey_memWf {b : Byte} {c : Bool} (hs : s.memWf = true) : (s.skipOnKey i b c).memWf = true := by
  unfold State.skipOnKey
  split
  · rw [State.skipIf_eq]
    exact hs
  · exact hs

theorem State.setLogicResult_memWf {x : Reg} {b : Byte} (hs : s.memWf = true) : (s.setLogicResult x b).memWf = true := by
  obtain ⟨r, hr⟩ := State.setLogicResult_eq (s := s) (x := x) (b := b)
  rw [hr]
  exact hs

theorem exec_keeps_memWf (hs : s.memWf = true) (h : exec i s = .next t) : t.memWf = true := by
  cases i with
  | ldBVx | ldMemVx => cases h; exact State.storeOrReport_memWf hs
  | skpVx | sknpVx => cases h; exact State.skipOnKey_memWf hs
  | seVxKk | sneVxKk | seVxVy | sneVxVy => cases h; rw [State.skipIf_eq]; exact hs
  | orVxVy | andVxVy | xorVxVy => cases h; exact State.setLogicResult_memWf hs
  | ret =>
    rcases Nat.eq_zero_or_pos s.sp.val with hsp | hsp
    · cases (exec_ret_of_empty hsp).symm.trans h
      exact hs
    · obtain ⟨a, n, hexec, -⟩ := exec_ret_of_pos hsp
      cases hexec.symm.trans h
      exact hs
  | call =>
    rcases s.sp_cases with hsp | hsp
    · obtain ⟨k, n, hexec, -⟩ := exec_call_of_room hsp
      cases hexec.symm.trans h
      exact hs
    · cases (exec_call_of_full hsp).symm.trans h
      exact hs
  | ldVxMem x =>
    rcases Nat.lt_or_ge (s.iReg.toNat + x.toNat) 4096 with hin | hout
    · obtain ⟨bs, hexec, -⟩ := exec_ldVxMem_loads hin
      obtain ⟨r, hr⟩ := State.setRegsFrom_eq (s := s) (j := 0) (bs := bs)
      cases (hr ▸ hexec).symm.trans h
      exact hs
    · cases (exec_ldVxMem_reports hout).symm.trans h
      exact hs
  | _ => cases h; exact hs

theorem HostWrites.memWf (hs : s.memWf = true) (hw : HostWrites s o t) : t.memWf = true := by
  cases hw with
  | loaded h => exact State.memWf_writeBytes hs (by omega)
  | press k =>
    cases hm : (s.setKey k true).mode with
    | running => rw [State.endWait_running hm]; exact hs
    | awaitingKey => rw [State.endWait_awaitingKey hm]; exact hs
  | _ => exact hs

/-! The program counter and the return addresses stay in range (R27). -/

theorem word_add_two_toNat {a : Word} (h : a.toNat ≤ 4096) : (a + 2).toNat = a.toNat + 2 := by
  rw [BitVec.toNat_add, show (2 : Word).toNat = 2 from rfl]
  omega

/-- Every return address is at most 4096. -/
def State.stackBounded (s : State) : Prop := ∀ (j : Nat) (a : Word), s.stack[j]? = some a → a.toNat ≤ 4096

theorem stackBounded_of_eq (hs : s.stackBounded) (h : t.stack = s.stack) : t.stackBounded :=
  fun j a ha => hs j a (h ▸ ha)

theorem stack_mem_piecesWritten : .stack ∈ piecesWritten i ↔ ∃ nnn, i = .call nnn := by
  cases i <;> simp [piecesWritten]

/-- The one push is that of the advanced pc (R102). -/
theorem exec_keeps_stackBounded (hs : s.stackBounded) (hpc : s.pc.toNat ≤ 4096) (h : exec i s = .next t) :
    t.stackBounded := by
  by_cases hw : .stack ∈ piecesWritten i
  · obtain ⟨nnn, rfl⟩ := stack_mem_piecesWritten.1 hw
    rcases s.sp_cases with hsp | hsp
    · obtain ⟨k, n, hexec, -, htop, hrest⟩ := exec_call_of_room (nnn := nnn) hsp
      cases hexec.symm.trans h
      intro j a ha
      by_cases hj : j = s.sp.val
      · subst hj
        cases htop.symm.trans ha
        exact hpc
      · exact hs j a ((hrest j hj).symm.trans ha)
    · cases (exec_call_of_full hsp).symm.trans h
      exact hs
  · exact stackBounded_of_eq hs (exec_sameBut h .stack hw)

theorem exec_pc_le (hs : s.stackBounded) (hpc : s.pc.toNat ≤ 4096) (h : exec i s = .next t) : t.pc.toNat ≤ 0x10FE := by
  obtain heq | ⟨-, heq⟩ | ⟨nnn, -, heq⟩ | ⟨-, -, htop⟩ | ⟨nnn, -, heq⟩ := exec_pc_cases h
  · rw [heq]
    omega
  · rw [heq, word_add_two_toNat hpc]
    omega
  · have := nnn.isLt
    omega
  · have := hs _ _ htop
    omega
  · have := (s.reg 0).isLt
    have := nnn.isLt
    omega

/-! The invariant. -/

theorem haltedPrecisely_of_live (h : s.halted = none) : s.haltedPrecisely := by
  simp only [State.haltedPrecisely, h]

theorem exec_haltedPrecisely (hh : s.halted = none) (hm : s.mode = .running) (h : exec i s = .next t) :
    t.haltedPrecisely := by
  rcases exec_halted_cases h with hsame | ⟨-, hsp, rfl⟩ | ⟨-, hsp, rfl⟩
  · exact haltedPrecisely_of_live (hsame.trans hh)
  · exact ⟨hsp, hm⟩
  · exact ⟨hsp, hm⟩

/-- Every record is justified. -/
def State.diagsJustified (s : State) : Prop := ∀ d ∈ s.diag, d.justified s.params

theorem diagsJustified_of_eq (hs : s.diagsJustified) (hd : t.diag = s.diag) (hp : t.params = s.params) :
    t.diagsJustified := by
  intro d hd'
  rw [hp]
  exact hs d (hd ▸ hd')

theorem diagsJustified_of_record {d : Diag} (hs : s.diagsJustified) (hd : t.diag = s.diag ++ [d])
    (hp : t.params = s.params) (hj : d.justified s.params) : t.diagsJustified := by
  intro e he
  rw [hd, List.mem_append, List.mem_singleton] at he
  rw [hp]
  rcases he with he | rfl
  · exact hs e he
  · exact hj

theorem exec_keeps_diagsJustified (hs : s.diagsJustified) (haddr : s.insnAddr.toNat ≤ 4094) (h : exec i s = .next t) :
    t.diagsJustified := by
  rcases exec_reports_justified h with hdiag | ⟨d, rfl, hd⟩
  · exact diagsJustified_of_eq hs hdiag (exec_sameBut h .params (by cases i <;> simp [piecesWritten]))
  · exact diagsJustified_of_record hs rfl rfl (hd haddr _)

theorem advance_pc_toNat (h : s.pc.toNat ≤ 4094) : s.advance.pc.toNat = s.pc.toNat + 2 :=
  word_add_two_toNat (by omega)

/-- The execution of an instruction fetched in range keeps the invariant. -/
theorem exec_keeps_inv (hs : Inv s) (hh : s.halted = none) (hm : s.mode = .running) (hpc : s.pc.toNat ≤ 4094)
    (h : exec i s.advance = .next t) : Inv t := by
  obtain ⟨hmem, -, hstack, -, hdiag⟩ := hs
  have hpc' : s.advance.pc.toNat ≤ 4096 := by rw [advance_pc_toNat hpc]; omega
  exact ⟨exec_keeps_memWf (s := s.advance) hmem h, exec_pc_le (s := s.advance) hstack hpc' h,
    exec_keeps_stackBounded (s := s.advance) hstack hpc' h, exec_haltedPrecisely (s := s.advance) hh hm h,
    exec_keeps_diagsJustified (s := s.advance) hdiag (by rw [State.advance_insnAddr]; exact hpc) h⟩

/-- An unknown word in range keeps the invariant: its record is justified by the decoder's rejection. -/
theorem skipUnknown_keeps_inv {w : Word} {why : UnknownWord} (hs : Inv s) (hh : s.halted = none)
    (hpc : s.pc.toNat ≤ 4094) (hd : decodeWord s.params w = .error why) : Inv (s.skipUnknown w) := by
  obtain ⟨hmem, -, hstack, -, hdiag⟩ := hs
  have hpc' : (s.skipUnknown w).pc.toNat = s.pc.toNat + 2 := advance_pc_toNat hpc
  refine ⟨hmem, by omega, hstack, haltedPrecisely_of_live hh, diagsJustified_of_record hdiag rfl rfl ⟨?_, ?_⟩⟩
  · rw [State.advance_insnAddr]
    exact hpc
  · simp [hd]

/-- Settles O3: a wait changes nothing, a failed fetch leaves pc past 4094, and an unknown word and an instruction start from
a pc in range. -/
theorem stepKeepsInvariant : Obligations.StepKeepsInvariant := by
  unfold Obligations.StepKeepsInvariant
  intro s t hs h
  obtain ⟨hh, ⟨-, rfl⟩ | ⟨hm, hpc, rfl⟩ | ⟨hm, hpc, w, -, ⟨why, hd, -, rfl⟩ | ⟨i, -, -, hexec⟩⟩⟩ := step_cases h
  · exact hs
  · obtain ⟨hmem, hpc', hstack, -, hdiag⟩ := hs
    exact ⟨hmem, hpc', hstack, ⟨hpc, hm⟩, hdiag⟩
  · exact skipUnknown_keeps_inv hs hh hpc hd
  · exact exec_keeps_inv hs hh hm hpc hexec

theorem HostWrites.keeps_diagsJustified (hs : s.diagsJustified) (hw : HostWrites s o t) : t.diagsJustified := by
  have hp : t.params = s.params := hw.sameBut .params (by simp)
  rcases hw.diag with hdiag | ⟨j, hj, hdiag⟩
  · exact diagsJustified_of_eq hs hdiag hp
  · exact diagsJustified_of_record hs hdiag hp hj

theorem HostWrites.keeps_inv (hs : Inv s) (hh : s.halted = none) (hw : HostWrites s o t) : Inv t := by
  obtain ⟨hmem, hpc, hstack, -, hdiag⟩ := hs
  have hpc' : t.pc = s.pc := hw.sameBut .pc (by simp)
  have hhalted : t.halted = s.halted := hw.sameBut .halted (by simp)
  exact ⟨hw.memWf hmem, hpc' ▸ hpc, stackBounded_of_eq hstack (hw.sameBut .stack (by simp)),
    haltedPrecisely_of_live (hhalted.trans hh), hw.keeps_diagsJustified hdiag⟩

theorem applyOp_keeps_inv (hs : Inv s) (h : applyOp o s = .next t) : Inv t := by
  by_cases ho : o = .step
  · subst ho
    exact stepKeepsInvariant s t hs h
  · exact (hostWrites_of_applyOp ho h).keeps_inv hs (live_of_applyOp h)

/-- Settles O4: each operation of the list keeps the invariant. -/
theorem sessionKeepsInvariant : Obligations.SessionKeepsInvariant := by
  unfold Obligations.SessionKeepsInvariant
  intro os
  induction os with
  | nil =>
    intro s t hs h
    cases h
    exact hs
  | cons o os ih =>
    intro s t hs h
    obtain ⟨u, hu, hrun⟩ := runOps_cons_next h
    exact ih u t (applyOp_keeps_inv hs hu) hrun

end Sys2Proof.Machine
end

section
/-! SUPPORT. The pixel ports and DRW: a sprite as the list of the points its set bits name, no two of them on the same pixel
(R32, R171 to R173). -/

namespace Sys2Proof.Machine

variable {s t u : State} {c : Canvas} {cx cy k px py n : Nat} {row : Byte} {rows : List Byte} {p : Nat × Nat}
  {ps : List (Nat × Nat)}

/-- Settles O38: a flip is of the pixel that the coordinates wrap to, and the port is guarded by halted. -/
theorem pixelPortsWrapAndFlip : Obligations.PixelPortsWrapAndFlip := by
  unfold Obligations.PixelPortsWrapAndFlip
  refine fun x y s => ⟨fbGet_mod.symm, fun hh => ⟨s.setFb (fbFlip s.fb x y), unlessHalted_none hh, ?_,
    State.setFb_sameBut (by simp)⟩, fun k hk => unlessHalted_some hk⟩
  intro px py hpx hpy
  have hflip := fbGet_fbFlip (f := s.fb) (x := x) (y := y) (px := px) (py := py)
  rwa [Nat.mod_eq_of_lt hpx, Nat.mod_eq_of_lt hpy] at hflip

/-! Plotting a list of points. -/

/-- Two points that wrap to the same pixel (R32). -/
def SamePixel (p q : Nat × Nat) : Prop := p.1 % 64 = q.1 % 64 ∧ p.2 % 32 = q.2 % 32

/-- Plot points one after another. -/
def plotAll : Canvas → List (Nat × Nat) → Canvas
  | c, [] => c
  | c, p :: ps => plotAll (plot c p.1 p.2) ps

theorem plotAll_append {qs : List (Nat × Nat)} : plotAll c (ps ++ qs) = plotAll (plotAll c ps) qs := by
  induction ps generalizing c with
  | nil => rfl
  | cons p ps ih => exact ih

theorem fbGet_plot_of_samePixel (h : SamePixel (px, py) p) :
    fbGet (plot c p.1 p.2).fb px py = !fbGet c.fb px py := by
  rw [plot_fb, fbGet_fbFlip, if_pos (show px % 64 = p.1 % 64 ∧ py % 32 = p.2 % 32 from h)]

theorem fbGet_plot_of_not_samePixel (h : ¬SamePixel (px, py) p) :
    fbGet (plot c p.1 p.2).fb px py = fbGet c.fb px py := by
  rw [plot_fb, fbGet_fbFlip, if_neg (show ¬(px % 64 = p.1 % 64 ∧ py % 32 = p.2 % 32) from h)]

/-- A pixel that none of the points is on stays. -/
theorem fbGet_plotAll_of_forall_not (h : ∀ p ∈ ps, ¬SamePixel (px, py) p) :
    fbGet (plotAll c ps).fb px py = fbGet c.fb px py := by
  induction ps generalizing c with
  | nil => rfl
  | cons p ps ih =>
    obtain ⟨hp, hps⟩ := List.forall_mem_cons.1 h
    rw [plotAll, ih hps, fbGet_plot_of_not_samePixel hp]

/-- A pixel that one of the points is on, and so no other, is flipped. -/
theorem fbGet_plotAll_of_exists (hps : ps.Pairwise fun p q => ¬SamePixel p q) (h : ∃ p ∈ ps, SamePixel (px, py) p) :
    fbGet (plotAll c ps).fb px py = !fbGet c.fb px py := by
  induction ps generalizing c with
  | nil => simp at h
  | cons p ps ih =>
    obtain ⟨hhead, htail⟩ := List.pairwise_cons.1 hps
    rw [plotAll]
    by_cases hp : SamePixel (px, py) p
    · have hrest : ∀ q ∈ ps, ¬SamePixel (px, py) q := fun q hq hsame =>
        hhead q hq ⟨hp.1.symm.trans hsame.1, hp.2.symm.trans hsame.2⟩
      rw [fbGet_plotAll_of_forall_not hrest, fbGet_plot_of_samePixel hp]
    · obtain ⟨q, hq, hsame⟩ := h
      have hq' : q ∈ ps := (List.mem_cons.1 hq).resolve_left fun heq => hp (heq ▸ hsame)
      rw [ih htail ⟨q, hq', hsame⟩, fbGet_plot_of_not_samePixel hp]

/-- Points on different pixels hit exactly the ones that were lit before any was plotted. -/
theorem plotAll_hit (hps : ps.Pairwise fun p q => ¬SamePixel p q) :
    (plotAll c ps).hit = true ↔ c.hit = true ∨ ∃ p ∈ ps, fbGet c.fb p.1 p.2 = true := by
  induction ps generalizing c with
  | nil => simp [plotAll]
  | cons p ps ih =>
    obtain ⟨hhead, htail⟩ := List.pairwise_cons.1 hps
    have hrest : ∀ q ∈ ps, fbGet (plot c p.1 p.2).fb q.1 q.2 = fbGet c.fb q.1 q.2 := fun q hq =>
      fbGet_plot_of_not_samePixel fun hsame => hhead q hq ⟨hsame.1.symm, hsame.2.symm⟩
    rw [plotAll, ih htail, plot_hit, Bool.or_eq_true, List.exists_mem_cons_iff, or_assoc]
    have hsame : (∃ q ∈ ps, fbGet (plot c p.1 p.2).fb q.1 q.2 = true) ↔ ∃ q ∈ ps, fbGet c.fb q.1 q.2 = true :=
      exists_congr fun q => and_congr_right fun hq => by rw [hrest q hq]
    rw [hsame]

/-! The points of a sprite. -/

/-- The points of the k lowest bits of a sprite row, in the order `blitBits` plots them. -/
def rowPoints (row : Byte) (cx cy : Nat) : Nat → List (Nat × Nat)
  | 0 => []
  | k + 1 => if row.getLsbD k then (cx + (7 - k), cy) :: rowPoints row cx cy k else rowPoints row cx cy k

/-- The points of the rows of a sprite, in the order `blitRows` plots them. -/
def spritePoints (cx : Nat) : Nat → List Byte → List (Nat × Nat)
  | _, [] => []
  | cy, row :: rows => rowPoints row cx cy 8 ++ spritePoints cx (cy + 1) rows

theorem blitBits_eq_plotAll : blitBits row cx cy k c = plotAll c (rowPoints row cx cy k) := by
  induction k generalizing c with
  | zero => rfl
  | succ k ih =>
    rw [blitBits, rowPoints, ih]
    split <;> rfl

theorem blitRows_eq_plotAll : blitRows cx cy rows c = plotAll c (spritePoints cx cy rows) := by
  induction rows generalizing cy c with
  | nil => rfl
  | cons row rows ih => rw [blitRows, spritePoints, plotAll_append, ih, blitBits_eq_plotAll]

theorem mem_rowPoints : p ∈ rowPoints row cx cy k ↔ ∃ j, j < k ∧ row.getLsbD j = true ∧ p = (cx + (7 - j), cy) := by
  induction k with
  | zero => simp [rowPoints]
  | succ k ih =>
    rw [rowPoints, Nat.exists_lt_succ_right, ← ih]
    split <;> rename_i hbit <;> simp [hbit, or_comm]

theorem mem_spritePoints :
    p ∈ spritePoints cx cy rows ↔
      ∃ r j row, rows[r]? = some row ∧ j < 8 ∧ row.getLsbD j = true ∧ p = (cx + (7 - j), cy + r) := by
  induction rows generalizing cy with
  | nil => simp [spritePoints]
  | cons row rows ih =>
    rw [spritePoints, List.mem_append, mem_rowPoints, ih]
    constructor
    · rintro (⟨j, hj, hbit, rfl⟩ | ⟨r, j, row', hrow, hj, hbit, rfl⟩)
      · exact ⟨0, j, row, rfl, hj, hbit, rfl⟩
      · exact ⟨r + 1, j, row', hrow, hj, hbit, by rw [Nat.add_right_comm, Nat.add_assoc]⟩
    · rintro ⟨r, j, row', hrow, hj, hbit, rfl⟩
      cases r with
      | zero =>
        cases hrow
        exact .inl ⟨j, hj, hbit, rfl⟩
      | succ r => exact .inr ⟨r, j, row', hrow, hj, hbit, by rw [Nat.add_right_comm, Nat.add_assoc]⟩

/-- The eight columns of a row wrap to different pixels (R32: 64 columns). -/
theorem rowPoints_pairwise (h : k ≤ 8) : (rowPoints row cx cy k).Pairwise fun p q => ¬SamePixel p q := by
  induction k with
  | zero => exact List.Pairwise.nil
  | succ k ih =>
    rw [rowPoints]
    split
    · refine List.pairwise_cons.2 ⟨fun q hq => ?_, ih (by omega)⟩
      obtain ⟨j, hj, -, rfl⟩ := mem_rowPoints.1 hq
      rintro ⟨hx, -⟩
      dsimp only at hx
      omega
    · exact ih (by omega)

/-- The rows of a sprite wrap to different rows of pixels (R32: 32 rows, R172: at most 15 of a sprite). -/
theorem spritePoints_pairwise (h : rows.length ≤ 32) :
    (spritePoints cx cy rows).Pairwise fun p q => ¬SamePixel p q := by
  induction rows generalizing cy with
  | nil => exact List.Pairwise.nil
  | cons row rows ih =>
    rw [List.length_cons] at h
    refine List.pairwise_append.2 ⟨rowPoints_pairwise (Nat.le_refl 8), ih (by omega), fun q hq q' hq' => ?_⟩
    obtain ⟨j, -, -, rfl⟩ := mem_rowPoints.1 hq
    obtain ⟨r, j', row', hrow, -, -, rfl⟩ := mem_spritePoints.1 hq'
    obtain ⟨hr, -⟩ := List.getElem?_eq_some_iff.1 hrow
    rintro ⟨-, hy⟩
    dsimp only at hy
    omega

/-! DRW. -/

/-- The points DRW plots. -/
def State.drawnPoints (s : State) (cx cy n : Nat) : List (Nat × Nat) := spritePoints cx cy (s.spriteRows s.iReg.toNat n)

theorem drawnPoints_pairwise (h : n < 16) : (s.drawnPoints cx cy n).Pairwise fun p q => ¬SamePixel p q := by
  have hlen : (s.spriteRows s.iReg.toNat n).length ≤ n := State.spriteRows_length
  exact spritePoints_pairwise (by omega)

/-- The pixels that a sprite covers are those its points are on. -/
theorem spriteCovers_iff :
    spriteCovers s cx cy n px py ↔ ∃ p ∈ s.drawnPoints cx cy n, p.1 % 64 = px ∧ p.2 % 32 = py := by
  constructor
  · rintro ⟨r, col, row, hr, hcol, hrow, hbit, hx, hy⟩
    refine ⟨(cx + (7 - (7 - col)), cy + r), mem_spritePoints.2 ⟨r, 7 - col, row, ?_, by omega, hbit, rfl⟩, ?_, hy⟩
    · rw [State.spriteRows_getElem?, if_pos hr, hrow]
    · rwa [Nat.sub_sub_self (by omega)]
  · rintro ⟨p, hp, hx, hy⟩
    obtain ⟨r, j, row, hrow, hj, hbit, rfl⟩ := mem_spritePoints.1 hp
    rw [State.spriteRows_getElem?] at hrow
    split at hrow
    · rename_i hr
      exact ⟨r, 7 - j, row, hr, by omega, hrow, by rwa [Nat.sub_sub_self (by omega)], hx, hy⟩
    · cases hrow

theorem spriteCovers_iff_samePixel (hpx : px < 64) (hpy : py < 32) :
    spriteCovers s cx cy n px py ↔ ∃ p ∈ s.drawnPoints cx cy n, SamePixel (px, py) p := by
  simp only [spriteCovers_iff, SamePixel, Nat.mod_eq_of_lt hpx, Nat.mod_eq_of_lt hpy, eq_comm]

/-- What the canvas of a draw has hit is a lit pixel that the sprite covers. -/
theorem drawn_hit_iff (h : n < 16) :
    (plotAll ⟨s.fb, false⟩ (s.drawnPoints cx cy n)).hit = true ↔
      ∃ px py, spriteCovers s cx cy n px py ∧ s.getPixel px py = true := by
  rw [plotAll_hit (drawnPoints_pairwise h)]
  constructor
  · rintro (hfalse | ⟨p, hp, hlit⟩)
    · cases hfalse
    · exact ⟨p.1 % 64, p.2 % 32, spriteCovers_iff.2 ⟨p, hp, rfl, rfl⟩, fbGet_mod.trans hlit⟩
  · rintro ⟨px, py, hcovers, hlit⟩
    obtain ⟨p, hp, rfl, rfl⟩ := spriteCovers_iff.1 hcovers
    exact .inr ⟨p, hp, fbGet_mod.symm.trans hlit⟩

theorem exec_drwVxVyN {x y : Reg} {n : Nibble} :
    let drawn := plotAll ⟨s.fb, false⟩ (s.drawnPoints (s.reg x).toNat (s.reg y).toNat n.toNat)
    exec (.drwVxVyN x y n) s = .next (((s.setFb drawn.fb).setDirty true).setReg vf (b2u drawn.hit)) := by
  simp only [exec, execDrwVxVyN, blitRows_eq_plotAll, State.drawnPoints]

/-- Settles O39: the draw plots the sprite's points, which are on different pixels, and then writes dirty and VF. -/
theorem drawFlipsTheCoveredPixels : Obligations.DrawFlipsTheCoveredPixels := by
  unfold Obligations.DrawFlipsTheCoveredPixels
  refine ⟨fun p w hw => decodeWord_draw (opField_of_mask hw), fun x y n s => ⟨_, exec_drwVxVyN, fun px py hpx hpy => ?_,
    fun hhit => ?_, fun hmiss => ?_, rfl, State.setReg_regsBut, sameBut_trans
      (sameBut_trans (State.setFb_sameBut (by simp)) (State.setDirty_sameBut (by simp))) (State.setReg_sameBut (by simp))⟩⟩
  · rw [spriteCovers_iff_samePixel hpx hpy]
    constructor
    · exact fbGet_plotAll_of_exists (drawnPoints_pairwise n.isLt)
    · intro hnone
      exact fbGet_plotAll_of_forall_not fun p hp hsame => hnone ⟨p, hp, hsame⟩
  · rw [State.reg_setReg_same, (drawn_hit_iff n.isLt).2 hhit]
    rfl
  · rw [State.reg_setReg_same, Bool.eq_false_iff.2 fun h => hmiss ((drawn_hit_iff n.isLt).1 h)]
    rfl

/-! Drawing twice (R173). -/

theorem State.getPixel_mod : s.getPixel (px % 64) (py % 32) = s.getPixel px py := fbGet_mod

/-- What a sprite covers is read off I and memory. -/
theorem spriteCovers_congr (hI : t.iReg = s.iReg) (hmem : ∀ a, t.memRead? a = s.memRead? a) :
    spriteCovers t cx cy n px py ↔ spriteCovers s cx cy n px py := by
  simp only [spriteCovers, hI, hmem]

/-- Settles O40: the second draw flips the same pixels back, and its lit ones are those the first turned on. -/
theorem drawingTwiceRestoresTheScreen : Obligations.DrawingTwiceRestoresTheScreen := by
  unfold Obligations.DrawingTwiceRestoresTheScreen
  intro x y x' y' n s t s' u hfirst hx hy hI hmem hfb hsecond
  obtain ⟨t', hexec, hpixels, -⟩ := drawFlipsTheCoveredPixels.2 x y n s
  cases hexec.symm.trans hfirst
  obtain ⟨u', hexec', hpixels', hhit, hmiss, -⟩ := drawFlipsTheCoveredPixels.2 x' y' n s'
  cases hexec'.symm.trans hsecond
  simp only [hx, hy, spriteCovers_congr hI hmem, State.getPixel_congr hfb] at hpixels' hhit hmiss
  have hwrap : ∀ px py, px % 64 < 64 ∧ py % 32 < 32 := fun px py =>
    ⟨Nat.mod_lt _ (by decide), Nat.mod_lt _ (by decide)⟩
  refine ⟨fun px py => ?_, fun ⟨px, py, hoff, hon⟩ => hhit ?_, fun hnone => hmiss ?_⟩
  · rw [← State.getPixel_mod (s := u), ← State.getPixel_mod (s := s)]
    obtain ⟨hpx, hpy⟩ := hwrap px py
    obtain ⟨hflip, hkeep⟩ := hpixels _ _ hpx hpy
    obtain ⟨hflip', hkeep'⟩ := hpixels' _ _ hpx hpy
    by_cases hcovers : spriteCovers s (s.reg x).toNat (s.reg y).toNat n.toNat (px % 64) (py % 32)
    · rw [hflip' hcovers, hflip hcovers, Bool.not_not]
    · rw [hkeep' hcovers, hkeep hcovers]
  · obtain ⟨hpx, hpy⟩ := hwrap px py
    rw [← State.getPixel_mod] at hoff hon
    refine ⟨px % 64, py % 32, ?_, hon⟩
    by_contra hcovers
    rw [(hpixels _ _ hpx hpy).2 hcovers, hoff] at hon
    cases hon
  · rintro ⟨px, py, hcovers, hon⟩
    obtain ⟨p, -, rfl, rfl⟩ := spriteCovers_iff.1 hcovers
    obtain ⟨hpx, hpy⟩ := hwrap p.1 p.2
    have hoff : s.getPixel (p.1 % 64) (p.2 % 32) = false := by
      simpa [hon] using (hpixels _ _ hpx hpy).1 hcovers
    exact hnone ⟨_, _, hoff, hon⟩

end Sys2Proof.Machine
end

section
/-! SUPPORT. What no instruction reads: stack entries at and above sp, ST, dirty, diag and waitReg. A step of two states that
differ only in these ends in two states that differ only in these (R30, R31, R33, R37, R41). -/

namespace Sys2Proof.Machine

/-! The relation. -/

/-- The pieces of the state that no instruction reads; of the stack, what lies at and above sp. -/
structure Unread where
  stack : Vector Word 16
  st : Byte
  dirty : Bool
  diag : List Diag
  waitReg : Reg

/-- The four pieces that only the host reads. -/
def Unread.host (u : Unread) : Byte × Bool × List Diag × Reg := (u.st, u.dirty, u.diag, u.waitReg)

def State.unread (s : State) : Unread := ⟨s.stack, s.st, s.dirty, s.diag, s.waitReg⟩

def State.withUnread (s : State) (u : Unread) : State :=
  { s with stack := u.stack, st := u.st, dirty := u.dirty, diag := u.diag, waitReg := u.waitReg }

/-- The stack of u has the entries in use of s. -/
def Unread.agrees (u : Unread) (s : State) : Prop := ∀ j, j < s.sp.val → u.stack[j]? = s.stack[j]?

/-- What holds of s and u holds of t and u': the entries in use agree; and if the whole stacks agreed, or the four pieces of
the host, they still do. -/
def Carries (s : State) (u : Unread) (t : State) (u' : Unread) : Prop :=
  u'.agrees t ∧ (u.stack = s.stack → u'.stack = t.stack) ∧ (u.host = s.unread.host → u'.host = t.unread.host)

/-- t' is t but for what no instruction reads, and that is as s and u have it. -/
def Mirrors (s : State) (u : Unread) (t t' : State) : Prop := ∃ u', t' = t.withUnread u' ∧ Carries s u t u'

variable {s t t' : State} {u v : Unread} {i : Instr} {x : Reg} {b : Byte} {c : Bool} {a j n : Nat} {xs : List Byte}
  {d : Diag}

/-- Where t has the stack and sp of s, a write of a host piece on both sides keeps the pieces alike. -/
theorem mirrors_of_host {u' : Unread} (hu : u.agrees s) (ht : t' = t.withUnread u') (hsp : t.sp = s.sp)
    (hstack : t.stack = s.stack) (hstack' : u'.stack = u.stack)
    (hhost : u.host = s.unread.host → u'.host = t.unread.host) : Mirrors s u t t' := by
  refine ⟨u', ht, fun j hj => ?_, fun h => hstack'.trans (h.trans hstack.symm), hhost⟩
  rw [hstack, hstack']
  exact hu j (hsp ▸ hj)

/-- Where t has the stack, sp and host pieces of s, what no instruction reads stays as it is. -/
theorem mirrors_of_unread_eq (hu : u.agrees s) (ht : t' = t.withUnread u) (hsp : t.sp = s.sp)
    (hunread : t.unread = s.unread) : Mirrors s u t t' :=
  mirrors_of_host hu ht hsp (congrArg Unread.stack hunread) rfl fun h => h.trans (congrArg _ hunread.symm)

theorem mirrors_refl (hu : u.agrees s) : Mirrors s u s (s.withUnread u) := mirrors_of_unread_eq hu rfl rfl rfl

/-! The same write of a host piece on both sides. -/

theorem Unread.host_eq_iff :
    u.host = v.host ↔ u.st = v.st ∧ u.dirty = v.dirty ∧ u.diag = v.diag ∧ u.waitReg = v.waitReg := by
  simp only [Unread.host, Prod.mk.injEq]

theorem Unread.host_st (h : u.host = v.host) : { u with st := b }.host = { v with st := b }.host := by
  simp_all [Unread.host_eq_iff]

theorem Unread.host_dirty (h : u.host = v.host) : { u with dirty := c }.host = { v with dirty := c }.host := by
  simp_all [Unread.host_eq_iff]

theorem Unread.host_append (h : u.host = v.host) :
    { u with diag := u.diag ++ [d] }.host = { v with diag := v.diag ++ [d] }.host := by
  simp_all [Unread.host_eq_iff]

theorem Unread.host_waitReg (h : u.host = v.host) : { u with waitReg := x }.host = { v with waitReg := x }.host := by
  simp_all [Unread.host_eq_iff]

/-! The reads. -/

theorem State.withUnread_loadBytes? : (s.withUnread u).loadBytes? a n = s.loadBytes? a n := by
  induction n generalizing a with
  | zero => rfl
  | succ n ih =>
    have hread : (s.withUnread u).memRead? a = s.memRead? a := rfl
    simp only [State.loadBytes?, ih, hread]

theorem State.withUnread_spriteRows : (s.withUnread u).spriteRows a n = s.spriteRows a n := by
  induction n generalizing a with
  | zero => rfl
  | succ n ih =>
    have hread : (s.withUnread u).memRead? a = s.memRead? a := rfl
    simp only [State.spriteRows, ih, hread]

theorem State.withUnread_fetched : (s.withUnread u).fetched = s.fetched := rfl

/-! The shared operations. -/

theorem mirrors_skipIf (hu : u.agrees s) : Mirrors s u (s.skipIf c) ((s.withUnread u).skipIf c) := by
  rw [State.skipIf_eq, State.skipIf_eq]
  exact mirrors_of_unread_eq hu rfl rfl rfl

theorem mirrors_report (hu : u.agrees s) : Mirrors s u (s.report d) ((s.withUnread u).report d) :=
  mirrors_of_host (u' := { u with diag := u.diag ++ [d] }) hu rfl rfl rfl rfl Unread.host_append

theorem mirrors_skipOnKey (hu : u.agrees s) : Mirrors s u (s.skipOnKey i b c) ((s.withUnread u).skipOnKey i b c) := by
  rcases key_index_cases b.toNat with hinvalid | ⟨k, hk⟩
  · rw [State.skipOnKey_of_invalid hinvalid, State.skipOnKey_of_invalid hinvalid]
    exact mirrors_report hu
  · rw [State.skipOnKey_of_line hk, State.skipOnKey_of_line hk]
    exact mirrors_skipIf hu

theorem State.withUnread_writeBytes : (s.withUnread u).writeBytes a xs = (s.writeBytes a xs).withUnread u := by
  induction xs generalizing s a with
  | nil => rfl
  | cons y ys ih => exact ih (s := s.memWrite a y)

theorem mirrors_storeOrReport (hu : u.agrees s) :
    Mirrors s u (s.storeOrReport a xs d) ((s.withUnread u).storeOrReport a xs d) := by
  rcases Nat.lt_or_ge 4096 (a + xs.length) with hout | hin
  · rw [State.storeOrReport_reports hout, State.storeOrReport_reports hout]
    exact mirrors_report hu
  · rw [State.storeOrReport_stores hin, State.storeOrReport_stores hin, State.withUnread_writeBytes]
    obtain ⟨m, hm⟩ := State.writeBytes_eq (s := s) (a := a) (xs := xs)
    rw [hm]
    exact mirrors_of_unread_eq hu rfl rfl rfl

theorem State.withUnread_setRegsFrom : (s.withUnread u).setRegsFrom j xs = (s.setRegsFrom j xs).withUnread u := by
  induction xs generalizing s j with
  | nil => rfl
  | cons y ys ih =>
    rw [State.setRegsFrom, State.setRegsFrom, ← ih]
    split <;> rfl

theorem mirrors_setRegsFrom (hu : u.agrees s) : Mirrors s u (s.setRegsFrom j xs) ((s.withUnread u).setRegsFrom j xs) := by
  rw [State.withUnread_setRegsFrom]
  obtain ⟨r, hr⟩ := State.setRegsFrom_eq (s := s) (j := j) (bs := xs)
  rw [hr]
  exact mirrors_of_unread_eq hu rfl rfl rfl

theorem mirrors_setLogicResult (hu : u.agrees s) :
    Mirrors s u (s.setLogicResult x b) ((s.withUnread u).setLogicResult x b) := by
  cases hl : s.params.logicVf with
  | unchanged =>
    rw [State.setLogicResult_unchanged hl, State.setLogicResult_unchanged (s := s.withUnread u) hl]
    exact mirrors_of_unread_eq hu rfl rfl rfl
  | zero =>
    rw [State.setLogicResult_zero hl, State.setLogicResult_zero (s := s.withUnread u) hl]
    exact mirrors_of_unread_eq hu rfl rfl rfl

/-! The stack. -/

/-- RET reads an entry in use (R100). -/
theorem mirrors_ret (hu : u.agrees s) (h : exec .ret s = .next t) (h' : exec .ret (s.withUnread u) = .next t') :
    Mirrors s u t t' := by
  rcases Nat.eq_zero_or_pos s.sp.val with hsp | hsp
  · cases (exec_ret_of_empty hsp).symm.trans h
    cases (exec_ret_of_empty (s := s.withUnread u) hsp).symm.trans h'
    exact mirrors_of_unread_eq hu rfl rfl rfl
  · obtain ⟨a, n, hexec, htop, hn⟩ := exec_ret_of_pos hsp
    obtain ⟨a', n', hexec', htop', hn'⟩ := exec_ret_of_pos (s := s.withUnread u) hsp
    cases hexec.symm.trans h
    cases hexec'.symm.trans h'
    obtain rfl : a' = a := Option.some.inj (htop'.symm.trans ((hu (s.sp.val - 1) (by omega)).trans htop))
    obtain rfl : n' = n := Fin.ext (Nat.succ.inj (hn'.trans hn.symm))
    exact ⟨u, rfl, fun j hj => hu j (Nat.lt_trans hj (hn ▸ Nat.lt_succ_self _)), id, id⟩

/-- CALL writes the entry at sp on both sides (R102). -/
theorem mirrors_call {nnn : Addr} (hu : u.agrees s) (h : exec (.call nnn) s = .next t)
    (h' : exec (.call nnn) (s.withUnread u) = .next t') : Mirrors s u t t' := by
  rcases s.sp_cases with hsp | hsp
  · obtain ⟨k, n, hexec, hn, htop, hrest⟩ := exec_call_of_room (nnn := nnn) hsp
    obtain ⟨k', n', hexec', hn', htop', hrest'⟩ := exec_call_of_room (s := s.withUnread u) (nnn := nnn) hsp
    cases hexec.symm.trans h
    cases hexec'.symm.trans h'
    obtain rfl : n' = n := Fin.ext (hn'.trans hn.symm)
    have hentry : ∀ j, (j ≠ s.sp.val → u.stack[j]? = s.stack[j]?) → k'[j]? = k[j]? := by
      intro j hj
      by_cases hjsp : j = s.sp.val
      · subst hjsp
        exact htop'.trans htop.symm
      · exact (hrest' j hjsp).trans ((hj hjsp).trans (hrest j hjsp).symm)
    refine ⟨{ u with stack := k' }, rfl, fun j hj => hentry j fun hjsp => hu j ?_, fun hstack => ?_, id⟩
    · have hj' : j < n'.val := hj
      omega
    · refine Vector.ext fun j hj => Option.some.inj ?_
      rw [← Vector.getElem?_eq_getElem hj, ← Vector.getElem?_eq_getElem hj]
      exact hentry j fun _ => by rw [hstack]
  · cases (exec_call_of_full hsp).symm.trans h
    cases (exec_call_of_full (s := s.withUnread u) hsp).symm.trans h'
    exact mirrors_of_unread_eq hu rfl rfl rfl

/-! Instructions and steps. -/

theorem mirrors_ldVxMem (hu : u.agrees s) (h : exec (.ldVxMem x) s = .next t)
    (h' : exec (.ldVxMem x) (s.withUnread u) = .next t') : Mirrors s u t t' := by
  simp only [exec, execLdVxMem, Host.Outcome.next.injEq] at h h'
  have hload : (s.withUnread u).loadBytes? (s.withUnread u).iReg.toNat (bulkCount x) =
      s.loadBytes? s.iReg.toNat (bulkCount x) := State.withUnread_loadBytes?
  rw [hload] at h'
  subst h h'
  split
  · exact mirrors_setRegsFrom hu
  · exact mirrors_report hu

theorem mirrors_drwVxVyN {y : Reg} {m : Nibble} (hu : u.agrees s) (h : exec (.drwVxVyN x y m) s = .next t)
    (h' : exec (.drwVxVyN x y m) (s.withUnread u) = .next t') : Mirrors s u t t' := by
  cases exec_drwVxVyN.symm.trans h
  cases exec_drwVxVyN.symm.trans h'
  have hpoints : (s.withUnread u).drawnPoints = s.drawnPoints := by
    funext cx cy n
    exact congrArg _ State.withUnread_spriteRows
  rw [hpoints]
  exact mirrors_of_host (u' := { u with dirty := true }) hu rfl rfl rfl rfl Unread.host_dirty

/-- An instruction executed on two states that differ only in what no instruction reads. -/
theorem exec_mirrors (hu : u.agrees s) (h : exec i s = .next t) (h' : exec i (s.withUnread u) = .next t') :
    Mirrors s u t t' := by
  cases i with
  | ret => exact mirrors_ret hu h h'
  | call => exact mirrors_call hu h h'
  | ldVxMem => exact mirrors_ldVxMem hu h h'
  | drwVxVyN => exact mirrors_drwVxVyN hu h h'
  | seVxKk | sneVxKk | seVxVy | sneVxVy => cases h; cases h'; exact mirrors_skipIf hu
  | skpVx | sknpVx => cases h; cases h'; exact mirrors_skipOnKey hu
  | orVxVy | andVxVy | xorVxVy => cases h; cases h'; exact mirrors_setLogicResult hu
  | ldBVx | ldMemVx => cases h; cases h'; exact mirrors_storeOrReport hu
  | cls =>
    cases h; cases h'
    exact mirrors_of_host (u' := { u with dirty := true }) hu rfl rfl rfl rfl Unread.host_dirty
  | ldSTVx x =>
    cases h; cases h'
    exact mirrors_of_host (u' := { u with st := s.reg x }) hu rfl rfl rfl rfl Unread.host_st
  | ldVxK x =>
    cases h; cases h'
    exact mirrors_of_host (u' := { u with waitReg := x }) hu rfl rfl rfl rfl Unread.host_waitReg
  | _ => cases h; cases h'; exact mirrors_of_unread_eq hu rfl rfl rfl

theorem step_mirrors (hu : u.agrees s) (h : step s = .next t) (h' : step (s.withUnread u) = .next t') :
    Mirrors s u t t' := by
  simp only [step, State.withUnread_fetched] at h h'
  cases hf : s.fetched with
  | ended k => simp only [hf] at h; cases h
  | waiting =>
    simp only [hf] at h h'
    cases h; cases h'
    exact mirrors_refl hu
  | outOfBounds =>
    simp only [hf] at h h'
    cases h; cases h'
    exact mirrors_of_unread_eq hu rfl rfl rfl
  | unknown w =>
    simp only [hf] at h h'
    cases h; cases h'
    exact mirrors_report (s := s.advance) hu
  | run i =>
    simp only [hf] at h h'
    exact exec_mirrors (s := s.advance) hu h h'

/-- A step is refused by halted alone. -/
theorem step_withUnread_fault {f : Fault} (h : step s = .fault f) : step (s.withUnread u) = .fault f := by
  cases hh : s.halted with
  | none =>
    obtain ⟨t, ht⟩ := step_answers_next hh
    cases ht.symm.trans h
  | some k =>
    cases (applyOp_of_halted (o := .step) hh).symm.trans h
    exact applyOp_of_halted (o := .step) (s := s.withUnread u) hh

/-- The step of the other state answers a next state too, which differs only in what no instruction reads. -/
theorem step_withUnread_next (hu : u.agrees s) (h : step s = .next t) :
    ∃ u', step (s.withUnread u) = .next (t.withUnread u') ∧ Carries s u t u' := by
  obtain ⟨t', ht'⟩ := step_answers_next (s := s.withUnread u) (live_of_applyOp (s := s) (o := .step) h)
  obtain ⟨u', rfl, hcarries⟩ := step_mirrors hu h ht'
  exact ⟨u', ht', hcarries⟩

/-- Settles O57: with the stack kept, the two states still differ only in the four pieces of the host. -/
theorem stepIgnoresHostOnlyState : Obligations.StepIgnoresHostOnlyState := by
  unfold Obligations.StepIgnoresHostOnlyState
  refine fun s b d l x => ⟨fun f h => step_withUnread_fault (u := ⟨s.stack, b, d, l, x⟩) h, fun t h => ?_⟩
  obtain ⟨⟨k, b', d', l', x'⟩, hstep, -, hstack, -⟩ :=
    step_withUnread_next (u := ⟨s.stack, b, d, l, x⟩) (fun _ _ => rfl) h
  obtain rfl : k = t.stack := hstack rfl
  exact ⟨b', d', l', x', hstep⟩

/-- Settles O58: with the four pieces of the host kept, the two states still differ only in the stack at and above sp. -/
theorem staleStackEntriesAreUnobservable : Obligations.StaleStackEntriesAreUnobservable := by
  unfold Obligations.StaleStackEntriesAreUnobservable
  refine fun s a ha =>
    ⟨fun f h => step_withUnread_fault (u := ⟨a, s.st, s.dirty, s.diag, s.waitReg⟩) h, fun t h => ?_⟩
  obtain ⟨u, hstep, hentries, -, hhost⟩ := step_withUnread_next (u := ⟨a, s.st, s.dirty, s.diag, s.waitReg⟩) ha h
  obtain ⟨hst, hdirty, hdiag, hwaitReg⟩ := Unread.host_eq_iff.1 (hhost rfl)
  have hstack : t.withUnread u = { t with stack := u.stack } := by
    rw [State.withUnread, hst, hdirty, hdiag, hwaitReg]
    rfl
  exact ⟨u.stack, hstack ▸ hstep, hentries⟩

end Sys2Proof.Machine
end
